-- ==== Sys2Proof/Word.lean ====
section
/-! DEFINITION. The word types of the engine: 64-bit words (`00_scope.md` R10 `U64`), bytes (`U8`) and
the 32-bit seed (`U32`). Every value is unsigned; the arithmetic is in `Machine/Datapath.lean`. -/

namespace Sys2Proof

/-- A 64-bit unsigned value: lanes, keys, lengths, offsets (R6 `LANE_W`, `LEN_W`). -/
abbrev Word := BitVec 64

/-- An 8-bit unsigned value: a message byte, a digest byte, a command word (R51, R53, R85). -/
abbrev Byte := BitVec 8

/-- A 32-bit unsigned value: the seed (R6 `SEED_W`). -/
abbrev SeedWord := BitVec 32

end Sys2Proof
end

