-- ==== Sys2Proof/Config.lean ====
section
/-! DEFINITION. The parameters of the engine: the open one, `N_MAX` (`00_scope.md` R7), as a configuration
record that the machine carries, and the fixed ones of R6 under the names a claim uses. -/

namespace Sys2Proof

/-- What one build of the engine fixes: `N_MAX`, the largest message length it accepts (R7, decision D16).
DESIGN CHOICE (log entry 5, safe): carried beside the state, so that every statement holds for every value. -/
structure Config where
  nMax : Word
  deriving DecidableEq, Repr

namespace Config

/-- The default configuration: `N_MAX = 2^64 - 1` (R7). -/
def standard : Config := { nMax := 0xFFFFFFFFFFFFFFFF#64 }

/-- `LANE_W` (R6): the width of the lanes, the keys and every arithmetic result. -/
abbrev laneW : Nat := 64
/-- `LEN_W` (R6). -/
abbrev lenW : Nat := 64
/-- `SEED_W` (R6). -/
abbrev seedW : Nat := 32
/-- `BLOCK_BYTES` (R6). -/
abbrev blockBytes : Nat := 16
/-- `DIGEST_BYTES` (R6). -/
abbrev digestBytes : Nat := 16
/-- `TAIL_MIN` (R6). -/
abbrev tailMin : Nat := 1
/-- `TAIL_MAX` (R6). -/
abbrev tailMax : Nat := 15

/-- `C1` (R6), key-mix multiplier. -/
def c1 : Word := 0x87c37b91114253d5#64
/-- `C2` (R6), key-mix multiplier. -/
def c2 : Word := 0x4cf5ad432745937f#64
/-- `RA1` (R6), round-add constant of lane 1, a 32-bit literal (R33). -/
def ra1 : BitVec 32 := 0x52dce729#32
/-- `RA2` (R6), round-add constant of lane 2, a 32-bit literal (R33). -/
def ra2 : BitVec 32 := 0x38495ab5#32
/-- `FM1` (R6), first avalanche multiplier. -/
def fm1 : Word := 0xff51afd7ed558ccd#64
/-- `FM2` (R6), second avalanche multiplier. -/
def fm2 : Word := 0xc4ceb9fe1a85ec53#64
/-- `LANE_MUL` (R6), multiplier of the round-constant adder. -/
def laneMul : Word := 5#64

/-- `ROT_H1` (R6), left. -/
abbrev rotH1 : Nat := 27
/-- `ROT_H2` (R6), left; "right by 31 bits (equivalently left by 33)"; the document's value (C3, D19). -/
abbrev rotH2 : Nat := 33
/-- `ROT_K1` (R6), left. -/
abbrev rotK1 : Nat := 31
/-- `ROT_K2` (R6), left; "right 33 bits (equiv. left 31)"; the document's value (C3, D19). -/
abbrev rotK2 : Nat := 31
/-- `AV_SHIFT` (R6), right, zero fill. -/
abbrev avShift : Nat := 33

/-- `H2_INIT` (R6): the seed goes to `h1` only (C3, C6). -/
def h2Init : Word := 0#64
/-- `SEED_DEFAULT` (R6): the seed used when the caller supplies none. -/
def seedDefault : SeedWord := 0#32

end Config

end Sys2Proof
end

