-- ==== Sys2Proof/Syntax.lean ====
section
/-! DEFINITION. The commands of the engine (`00_scope.md` R16, `30_encoding.md` R90): one constructor per row
of spec/opcode_table.json. -/

namespace Sys2Proof

/-- A command (R16). `tail n` carries the tail length; the encodable lengths are 0 to 15 (`30_encoding.md`
R86, R87), which `Instr.wellFormed` checks. -/
inductive Instr where
  /-- INIT: open a computation (`41_init_block.md` R130). -/
  | init
  /-- BLOCK: absorb one full 16-byte block (`41_init_block.md` R131). -/
  | block
  /-- TAIL n: absorb the last n bytes (`42_tail.md` R150). -/
  | tail (n : Nat)
  /-- FINAL: finish the computation and produce the digest (`43_final.md` R170). -/
  | final
  deriving DecidableEq, Repr

end Sys2Proof
end

