-- ==== Sys2Proof/WellFormed.lean ====
section
/-! DEFINITION. Which commands can be written as a command word (`30_encoding.md` R85 to R87). -/

namespace Sys2Proof

/-- The tail length fits the 4-bit field `n`: "Tail lengths 16 and above cannot be written in the 4-bit field"
(R87). TAIL 0 can be written, and faults when executed (R90). The other commands have no operand. -/
def Instr.wellFormed : Instr → Bool
  | .init => true
  | .block => true
  | .tail n => decide (n ≤ Config.tailMax)
  | .final => true

end Sys2Proof
end

