-- ==== Sys2Proof/Decode.lean ====
section
/-! DEFINITION. The command words (`30_encoding.md` Part B): the decoder, total on all 256 words, and the
encoder. -/

namespace Sys2Proof

/-- What the decoder returns for a word (R91): a command, or "illegal". -/
inductive Decoded where
  /-- A word of the opcode map (R90). -/
  | command (i : Instr)
  /-- A word outside the map (R91; the map's own rows leave 237, log entry 15); executing it raises
  `Fault(IllegalCommand)` (R232). -/
  | illegal
  deriving DecidableEq, Repr

/-- A word selects a row of the opcode map when `w & mask = match` (R90). -/
def rowSelects (pattern mask w : Byte) : Bool := w &&& mask == pattern

/-- The field `n`, bits 3:0 of the word, unsigned and unscaled (R85, R86). -/
def tailField (w : Byte) : Nat := (w.extractLsb' 0 4).toNat

/-- The decoder (R90, R91), by the match and mask of each row. -/
def decode (w : Byte) : Decoded :=
  if rowSelects 0x10#8 0xFF#8 w then .command .init
  else if rowSelects 0x20#8 0xFF#8 w then .command .block
  else if rowSelects 0x30#8 0xF0#8 w then .command (.tail (tailField w))
  else if rowSelects 0x40#8 0xFF#8 w then .command .final
  else .illegal

/-- The command word of a command: field `op` in bits 7:4, field `n` in bits 3:0 (R85, R90). An abstract TAIL above 15 has no
word (R87); there the field takes the length modulo 16, DESIGN CHOICE (log entry 18, unsafe). -/
def encode : Instr → Byte
  | .init => 0x1#4 ++ 0x0#4
  | .block => 0x2#4 ++ 0x0#4
  | .tail n => 0x3#4 ++ BitVec.ofNat 4 n
  | .final => 0x4#4 ++ 0x0#4

/-- Decode a program of command words, one command per byte (R93); none if some word is illegal. -/
def decodeProgram : List Byte → Option (List Instr)
  | [] => some []
  | w :: ws =>
    match decode w, decodeProgram ws with
    | .command i, some is => some (i :: is)
    | _, _ => none

/-- The command words of a program, one byte per command (R93). -/
def encodeProgram (is : List Instr) : List Byte := is.map encode

/-- The command word the opcode table's numbering describes: one byte, bit 0 least significant, bits above
`nbits` zero. -/
def tableWord (nbits w : Nat) : Byte := BitVec.ofNat 8 (w % 2 ^ nbits)

/-- What this decoder reads from the word `w` of `nbits` bits (the host's question about an opcode-table row). -/
def decodeTableWord (nbits w : Nat) : Option Instr :=
  match decode (tableWord nbits w) with
  | .command i => some i
  | .illegal => none

end Sys2Proof
end

