-- ==== Sys2Proof/Machine/Datapath.lean ====
section
/-! DEFINITION. The datapath units (`40_datapath.md`): total pure functions on 64-bit words; they read no state, set
no flag and raise no fault. -/

namespace Sys2Proof.Machine

/-- ADD64 (R100): addition modulo 2^64. -/
def add64 (a b : Word) : Word := a + b

/-- MUL64 (R101): the low 64 bits of the product. -/
def mul64 (a b : Word) : Word := a * b

/-- XOR64 (R102). -/
def xor64 (a b : Word) : Word := a ^^^ b

/-- ROTL64 (R103): left rotation by `r`, `0 < r < 64`; other amounts are left undefined by the spec (U16) and are
used by no unit (log entry 9, safe). -/
def rotl64 (a : Word) (r : Nat) : Word := (a <<< r) ||| (a >>> (64 - r))

/-- ROTR64 (R104): right rotation, a left rotation by `64 - r`. -/
def rotr64 (a : Word) (r : Nat) : Word := rotl64 a (64 - r)

/-- SHR64 (R105): logical right shift, zero fill. -/
def shr64 (a : Word) (r : Nat) : Word := a >>> r

/-- `zext_64` (R12) of a byte, the seed or a round-add constant: zero extension. -/
def zext64 {n : Nat} (v : BitVec n) : Word := v.setWidth 64

/-- MIXKEY1 (R110): multiply by `C1`, rotate left 31, multiply by `C2`. -/
def mixKey1 (k : Word) : Word := mul64 (rotl64 (mul64 k Config.c1) Config.rotK1) Config.c2

/-- MIXKEY2 (R111): multiply by `C2`, rotate left 31 (right 33), multiply by `C1`. -/
def mixKey2 (k : Word) : Word := mul64 (rotl64 (mul64 k Config.c2) Config.rotK2) Config.c1

/-- MUL5ADD (R112), the round-constant adder: `h * 5 + zext_64(c)`. -/
def mul5add (h : Word) (c : BitVec 32) : Word := add64 (mul64 h Config.laneMul) (zext64 c)

/-- LANE1 (R113): the new `h1` from the old `h1`, the old `h2` and `k1`. -/
def lane1 (h1 h2 k1 : Word) : Word :=
  mul5add (add64 (rotl64 (xor64 h1 (mixKey1 k1)) Config.rotH1) h2) Config.ra1

/-- LANE2 (R114): the new `h2` from the NEW `h1`, the old `h2` and `k2`. -/
def lane2 (h1new h2 k2 : Word) : Word :=
  mul5add (add64 (rotl64 (xor64 h2 (mixKey2 k2)) Config.rotH2) h1new) Config.ra2

/-- One stage `x ^ (x >> 33)` of the avalanche unit (R115). -/
def avStage (x : Word) : Word := xor64 x (shr64 x Config.avShift)

/-- AVALANCHE (R115). -/
def avalanche (k : Word) : Word :=
  avStage (mul64 (avStage (mul64 (avStage k) Config.fm1)) Config.fm2)

/-- The block mix: both lanes by one block's keys, lane 2 from the new lane 1 (R113, R114, R131). -/
def blockMix (lanes : Word × Word) (keys : Word × Word) : Word × Word :=
  let h1new := lane1 lanes.1 lanes.2 keys.1
  (h1new, lane2 h1new lanes.2 keys.2)

/-- The tail's mix: each lane by its own key, no lane round (`42_tail.md` R150). -/
def tailMix (lanes : Word × Word) (keys : Word × Word) : Word × Word :=
  (xor64 lanes.1 (mixKey1 keys.1), xor64 lanes.2 (mixKey2 keys.2))

/-- FIN (`43_final.md` R170): the final lanes from the lanes and the byte count. -/
def finalMix (lanes : Word × Word) (len : Word) : Word × Word :=
  let a1 := xor64 lanes.1 len
  let a2 := xor64 lanes.2 len
  let b1 := add64 a1 a2
  let b2 := add64 a2 b1
  let c1 := avalanche b1
  let c2 := avalanche b2
  let f1 := add64 c1 c2
  (f1, add64 c2 f1)

end Sys2Proof.Machine
end

