-- ==== Sys2Proof/Machine/Operands.lean ====
section
/-! DEFINITION. The operand forms: little-endian words from bytes and back (`00_scope.md` R14, `30_encoding.md` R80),
the block's two words (R81), the packed tail (`42_tail.md` R151), the digest's bytes (R83) and the seed (R84). -/

namespace Sys2Proof.Machine

/-- LE64 (R14): the sum of the bytes weighted by `2^(8*i)`, byte 0 lowest; written from the last byte inwards. -/
def le64 : List Byte → Word
  | [] => 0#64
  | b :: bs => zext64 b + le64 bs * 256#64

/-- LE64bytes (R14, R80): byte `i` is bits `8*i+7 : 8*i`. -/
def le64bytes (v : Word) : List Byte := (List.range 8).map fun i => v.extractLsb' (8 * i) 8

/-- Byte placing (R106): the byte, widened first, in bits `8*j+7 : 8*j`. -/
def placeByte (t : Byte) (j : Nat) : Word := zext64 t <<< (8 * j)

/-- The two words of a 16-byte block: bytes 0 to 7 and bytes 8 to 15 (R56, R81). -/
def blockWords (b : List Byte) : Word × Word := (le64 (b.take 8), le64 ((b.drop 8).take 8))

/-- XOR the tail bytes at the listed offsets into `k`, the byte at offset `i` placed at byte position `i - base`
(R151). -/
def packBytes (t : List Byte) (base : Nat) (offsets : List Nat) (k : Word) : Word :=
  offsets.foldl (fun acc i => xor64 acc (placeByte (t.getD i 0#8) (i - base))) k

/-- TAILPACK (R151) of the tail `t` of length `n`: offsets `n-1` down to 8 go into `k2`; for `n >= 8` the word of offsets 0
to 7 goes into `k1` (conflict C2, decision D13), else offsets `n-1` down to 0. Both words start at 0 (D12). -/
def tailPack (t : List Byte) : Word × Word :=
  let n := t.length
  let k2 := packBytes t 8 (List.range' 8 (n - 8)).reverse 0#64
  let k1 :=
    if 8 ≤ n then xor64 0#64 (le64 (t.take 8))
    else packBytes t 0 (List.range n).reverse 0#64
  (k1, k2)

/-- The 16 digest bytes: `LE64bytes(h1)` then `LE64bytes(h2)` (R58, R83, R171). -/
def digestOf (lanes : Word × Word) : List Byte := le64bytes lanes.1 ++ le64bytes lanes.2

/-- The seed INIT uses: `seed_in` if `seed_present`, else `SEED_DEFAULT` (R24, R84, R130). -/
def seedOperand (present : Bool) (seedIn : SeedWord) : SeedWord :=
  if present then seedIn else Config.seedDefault

/-- The lanes INIT opens a computation with: `h1 = zext_64(seed)`, `h2 = H2_INIT` (R22, R130). -/
def seedLanes (seed : SeedWord) : Word × Word := (zext64 seed, Config.h2Init)

end Sys2Proof.Machine
end

