-- ==== Sys2Proof/Machine/State.lean ====
section
/-! DEFINITION. The state of the engine as plain data: the registers of `10_state.md` R20, the digest space, the
ports a step samples (`45_host_interface.md` R210), and the state after reset. -/

namespace Sys2Proof.Machine

/-- The phase register `ph` (`10_state.md` R26); its 2-bit codes are in `Machine/Flags.lean`. -/
inductive Phase where
  /-- No computation since reset. -/
  | idle
  /-- A computation is open and may take BLOCK, TAIL or FINAL. -/
  | absorb
  /-- The tail has been mixed; only FINAL may follow. -/
  | tailed
  /-- The digest is valid. -/
  | done
  deriving DecidableEq, Repr

/-- The fault cause `fcause` (`10_state.md` R28, `60_exceptions.md` R230); its 3-bit codes, 0 to 4, are in
`Machine/Flags.lean`; the codes 5 to 7 are never written. -/
inductive Cause where
  /-- Code 0: no fault recorded. -/
  | noFault
  /-- Code 1 (R231): a tail length outside 1..15. -/
  | tailLength
  /-- Code 2 (R232): a command word outside the opcode map. -/
  | illegalCommand
  /-- Code 3 (R233): a command the phase does not allow. -/
  | sequence
  /-- Code 4 (R234): the remaining bytes do not fit the command, or `msg_len > N_MAX`. -/
  | framing
  deriving DecidableEq, Repr

/-- The two ways to drive the engine (`45_host_interface.md` R211); one per run (U15). -/
inductive Drive where
  /-- Autonomous: the sequencer issues the commands. -/
  | sequencer
  /-- Command port: the words still to be fed, one per step. DESIGN CHOICE (log entry 4, safe): the list, which R30
  places with the runner, stands in the state. -/
  | commandPort (words : List Byte)
  deriving DecidableEq, Repr

/-- Byte-addressed memory: the listed (offset, byte) pairs, offsets strictly rising. An unlisted offset has no
value (log entry 2). -/
abbrev Memory := List Host.Cell

/-- The state of the machine. Registers `h1` to `fcause` and the digest space are the engine's (R20, R53); the
fields from `rst` on are what the host drives or hands over (R210, R211), which no command writes. -/
structure State where
  /-- Lane 1 (R21). -/
  h1 : Word
  /-- Lane 2 (R22). -/
  h2 : Word
  /-- Bytes consumed, and the offset of the next read (R23, R30). -/
  length : Word
  /-- The seed latched by INIT (R24). -/
  seed : SeedWord
  /-- The message length latched by INIT (R25). -/
  mlen : Word
  /-- The phase (R26). -/
  ph : Phase
  /-- The sticky fault flag (R27). -/
  flt : Bool
  /-- The fault cause (R28). -/
  fcause : Cause
  /-- The digest space, offsets 0 to 15 (R53). -/
  digest : Memory
  /-- Port `rst` (R210, R260). -/
  rst : Bool
  /-- Port `start` (R210, R212). -/
  start : Bool
  /-- Port `seed_present` (R210). -/
  seedPresent : Bool
  /-- Port `seed_in` (R210). -/
  seedIn : SeedWord
  /-- Port `msg_len` (R210). -/
  msgLen : Word
  /-- The message space behind the message read port (R51, R210). -/
  msg : Memory
  /-- The driving mode (R211). -/
  drive : Drive
  /-- The build's parameters (R7). -/
  cfg : Config
  deriving DecidableEq, Repr

/-- Why the machine stops. (The engine's own faults, R230, are no stops: they are next states with `flt` set.) -/
inductive Fault where
  /-- Raised by BLOCK and TAIL: a byte of the message they read was never placed by the host. The message must be
  fully materialised (`20_memory.md` R51) and a run that breaks this has no meaning (R68). Safe: the model stops where
  the spec says nothing. -/
  | messageByteAbsent
  /-- Raised by a message read outside the message (R52: never performed, R74: cannot happen). No command reaches it.
  Safe: the model stops. -/
  | readOutsideMessage
  deriving DecidableEq, Repr

/-- Why an instruction or a move of the host is refused. -/
inductive Refusal where
  /-- Raised by exec for an instruction without a meaning. Safe. -/
  | notModelled (mnemonic : String)
  /-- Raised by the step: a command word and a `start` that would be sampled, in the same step
  (`93_implementation_defined.md` U15 "refuse"). Safe. -/
  | bothDrivingModes
  /-- Raised by the host's read of the digest while `done = 0` (R172, R214, U9 "a read is refused"). Safe. -/
  | digestNotValid
  /-- Raised by the host's placing of a message while a computation is open (R68, R215, U13: no such move). Safe. -/
  | messageInUse
  /-- Raised by the host's placing of a message whose bytes the 64-bit offsets cannot reach (R64, U6). Safe. -/
  | messageTooLong
  /-- Raised by the host's change of the driving mode while a computation is open, by supplying command words while the
  sequencer drives, and by running a command line where that change would be needed (R211, U15: one driving mode per
  run). Safe. -/
  | drivingModeFixed
  deriving DecidableEq, Repr

/-- The machine right after reset (`70_reset_and_hazards.md` R260, R261): phase IDLE, no fault, no digest byte.
`h1`, `h2`, `length`, `seed`, `mlen`: DESIGN CHOICE 0 (log entry 1, unsafe): the spec gives them no value.
The ports: DESIGN CHOICE (log entries 3 and 4): nothing driven, no message, the sequencer drives. -/
def State.reset : State :=
  { h1 := 0#64, h2 := 0#64, length := 0#64, seed := 0#32, mlen := 0#64
    ph := .idle, flt := false, fcause := .noFault, digest := []
    rst := false, start := false, seedPresent := false, seedIn := 0#32, msgLen := 0#64, msg := []
    drive := .sequencer, cfg := Config.standard }

end Sys2Proof.Machine
end

