-- ==== Sys2Proof/Machine/Ops.lean ====
section
/-! DEFINITION. The named operations: memory in its canonical form, the message read port, the digest write, taking a
fault, the reset, and the frame every command shares. -/

namespace Sys2Proof.Machine

/-- The outcome of a command. -/
abbrev Result := Host.Outcome State Fault Refusal

/-! ### Memory -/

/-- The canonical form above offset `lo`: offsets strictly rising, all below `bound`. (An unlisted offset has no value,
so no byte equals what it reads as.) -/
def Memory.wfFrom (lo bound : Nat) : Memory → Bool
  | [] => true
  | (a, _) :: m => decide (lo ≤ a) && decide (a < bound) && Memory.wfFrom (a + 1) bound m

/-- The canonical form of a space with offsets 0 to `bound - 1`. -/
def Memory.wf (bound : Nat) (m : Memory) : Bool := Memory.wfFrom 0 bound m

/-- The number of offsets of the message space: 64-bit offsets (`20_memory.md` R51). -/
abbrev messageSpan : Nat := 2 ^ 64

/-- The number of offsets of the digest space (R53). -/
abbrev digestSpan : Nat := Config.digestBytes

/-- Read one byte; none where no byte is listed (log entry 2). -/
def Memory.read : Memory → Nat → Option Byte
  | [], _ => none
  | (b, v) :: m, a => if a = b then some v else Memory.read m a

/-- Write one byte, keeping the canonical form. -/
def Memory.write : Memory → Nat → Byte → Memory
  | [], a, v => [(a, v)]
  | (b, w) :: m, a, v =>
    if a < b then (a, v) :: (b, w) :: m
    else if a = b then (a, v) :: m
    else (b, w) :: Memory.write m a v

/-- Read `n` consecutive bytes, lowest offset first; none if one of them is not listed. -/
def Memory.readBytes (m : Memory) (a : Nat) : Nat → Option (List Byte)
  | 0 => some []
  | n + 1 =>
    match Memory.read m a, Memory.readBytes m (a + 1) n with
    | some b, some bs => some (b :: bs)
    | _, _ => none

/-- Write consecutive bytes, lowest offset first. -/
def Memory.writeBytes (m : Memory) (a : Nat) : List Byte → Memory
  | [] => m
  | b :: bs => Memory.writeBytes (Memory.write m a b) (a + 1) bs

/-- `MemRead(off, n)` on the message space (`00_scope.md` R14, `20_memory.md` R52): the bytes at offsets `off` to
`off + n - 1`, defined only inside the message. -/
def memRead (s : State) (off : Word) (n : Nat) : Except Fault (List Byte) :=
  if off.toNat + n ≤ s.mlen.toNat then
    match Memory.readBytes s.msg off.toNat n with
    | some bs => .ok bs
    | none => .error .messageByteAbsent
  else .error .readOutsideMessage

/-- The offset of the digest write: `MemWrite(0, 16, ..)` (R14, R171). -/
def digestBase : Nat := 0

/-- `MemWrite(0, 16, v)` on the digest space (R14, R171). -/
def memWriteDigest (s : State) (v : List Byte) : Memory := Memory.writeBytes s.digest digestBase v

/-! ### Writing the registers -/

/-- Write both lanes (R21, R22). -/
def setLanes (lanes : Word × Word) (s : State) : State := { s with h1 := lanes.1, h2 := lanes.2 }

/-- Write `length` (R23). -/
def setLength (n : Word) (s : State) : State := { s with length := n }

/-- Write `ph` (R15, R26). -/
def setPhase (p : Phase) (s : State) : State := { s with ph := p }

/-- Write `seed` and `mlen` (R24, R25). -/
def latchInputs (seed : SeedWord) (mlen : Word) (s : State) : State := { s with seed := seed, mlen := mlen }

/-- Write the digest space (R53). -/
def setDigest (m : Memory) (s : State) : State := { s with digest := m }

/-! ### Taking a fault, and the reset -/

/-- `raise Fault(c)` (`00_scope.md` R15, `60_exceptions.md` R236): sets `flt`, records the cause, and nothing else. There
is no return from it: only the reset clears it (R237). -/
def raiseFault (c : Cause) (s : State) : State := { s with flt := true, fcause := c }

/-- The reset (`70_reset_and_hazards.md` R260): the engine's registers and the digest space as after reset; the ports
keep what the host drives. The registers without a value: DESIGN CHOICE 0 (log entry 1, unsafe). -/
def resetEngine (s : State) : State :=
  { s with
    h1 := State.reset.h1, h2 := State.reset.h2, length := State.reset.length, seed := State.reset.seed
    mlen := State.reset.mlen, ph := State.reset.ph, flt := State.reset.flt, fcause := State.reset.fcause
    digest := State.reset.digest }

/-! ### The frame of a command -/

/-- What every command does around its own effect (R235, R237): ignored while `flt = 1`; else the first failing check
raises its fault; else the command runs. -/
def runCommand (check : Option Cause) (effect : State → Result) (s : State) : Result :=
  if s.flt then .next s
  else
    match check with
    | some c => .next (raiseFault c s)
    | none => effect s

/-- A command that reads `n` message bytes at `length` (R54), then goes on with them. -/
def withMessageBytes (n : Nat) (k : List Byte → State → State) (s : State) : Result :=
  match memRead s s.length n with
  | .ok bs => .next (k bs s)
  | .error f => .fault f

end Sys2Proof.Machine
end

