-- ==== Sys2Proof/Machine/Flags.lean ====
section
/-! DEFINITION. The one flag and what goes with it: the codes of `ph` and `fcause`, the status wires, and each command's
checks in priority order. -/

namespace Sys2Proof.Machine

/-- The 2-bit code of the phase (`10_state.md` R26). -/
def Phase.code : Phase → BitVec 2
  | .idle => 0b00#2
  | .absorb => 0b01#2
  | .tailed => 0b10#2
  | .done => 0b11#2

/-- The 3-bit code of the cause (`10_state.md` R28, `60_exceptions.md` R230). -/
def Cause.code : Cause → BitVec 3
  | .noFault => 0#3
  | .tailLength => 1#3
  | .illegalCommand => 2#3
  | .sequence => 3#3
  | .framing => 4#3

/-- A computation is open: `ph` is ABSORB or TAILED (R26). -/
def Phase.isOpen : Phase → Bool
  | .idle => false
  | .absorb => true
  | .tailed => true
  | .done => false

/-- Output `done` (R29). -/
def State.doneOut (s : State) : Bool := decide (s.ph = .done) && !s.flt

/-- Output `busy` (R29). -/
def State.busyOut (s : State) : Bool := s.ph.isOpen && !s.flt

/-- Output `fault` (R29). -/
def State.faultOut (s : State) : Bool := s.flt

/-- Output `fcause`, 3 bits (R210). -/
def State.fcauseOut (s : State) : BitVec 3 := s.fcause.code

/-- `remaining = mlen - length` (R25) as an integer difference; never negative in a fault-free computation (R63).
DEDUCED for `length > mlen`, which no run reaches (log entry 8, safe). -/
def State.remaining (s : State) : Int := (s.mlen.toNat : Int) - (s.length.toNat : Int)

/-- INIT's checks (R130): Sequence in ABSORB or TAILED, then Framing for `msg_len > N_MAX`. -/
def initCheck (s : State) : Option Cause :=
  if s.ph.isOpen then some .sequence
  else if s.cfg.nMax.toNat < s.msgLen.toNat then some .framing
  else none

/-- BLOCK's checks (R131): Sequence unless ABSORB, then Framing for fewer than 16 bytes remaining. -/
def blockCheck (s : State) : Option Cause :=
  if s.ph ≠ .absorb then some .sequence
  else if s.remaining < (Config.blockBytes : Int) then some .framing
  else none

/-- TAIL's checks (R150): Sequence unless ABSORB, then TailLength for a length outside 1..15 (R231; above 15 log
entry 12), then Framing unless exactly `n` bytes remain. -/
def tailCheck (n : Nat) (s : State) : Option Cause :=
  if s.ph ≠ .absorb then some .sequence
  else if n < Config.tailMin ∨ Config.tailMax < n then some .tailLength
  else if s.remaining ≠ (n : Int) then some .framing
  else none

/-- FINAL's checks (R170): Sequence unless a computation is open, then Framing if bytes remain. -/
def finalCheck (s : State) : Option Cause :=
  if !s.ph.isOpen then some .sequence
  else if s.remaining ≠ 0 then some .framing
  else none

end Sys2Proof.Machine
end

