-- ==== Sys2Proof/Machine/Final.lean ====
section
/-! DEFINITION. The command FINAL (`43_final.md`). -/

namespace Sys2Proof.Machine

/-- FINAL's effect (R170, R171): the final lanes, the 16 digest bytes, `ph` DONE; `length` is not changed. -/
def finishComputation (s : State) : State :=
  let lanes := finalMix (s.h1, s.h2) s.length
  setPhase .done (setDigest (memWriteDigest s (digestOf lanes)) (setLanes lanes s))

/-- FINAL (R170). -/
def execFinal (s : State) : Result :=
  runCommand (finalCheck s) (fun s => .next (finishComputation s)) s

end Sys2Proof.Machine
end

