-- ==== Sys2Proof/Machine/InitBlock.lean ====
section
/-! DEFINITION. The commands INIT and BLOCK (`41_init_block.md`). -/

namespace Sys2Proof.Machine

/-- INIT's effect (R130): latch the ports, open the computation. The digest is not written; its bytes can no longer be read
(log entry 13). -/
def openComputation (s : State) : State :=
  let seed := seedOperand s.seedPresent s.seedIn
  setPhase .absorb (setLength 0#64 (setLanes (seedLanes seed) (latchInputs seed s.msgLen s)))

/-- INIT (R130). -/
def execInit (s : State) : Result :=
  runCommand (initCheck s) (fun s => .next (openComputation s)) s

/-- BLOCK's effect with the 16 bytes `b` read at `length` (R131): `length` grows by 16, the lanes take the block mix,
`ph` stays. -/
def absorbBlock (b : List Byte) (s : State) : State :=
  setLanes (blockMix (s.h1, s.h2) (blockWords b)) (setLength (s.length + BitVec.ofNat 64 Config.blockBytes) s)

/-- BLOCK (R131, R132). -/
def execBlock (s : State) : Result :=
  runCommand (blockCheck s) (withMessageBytes Config.blockBytes absorbBlock) s

end Sys2Proof.Machine
end

