-- ==== Sys2Proof/Machine/Tail.lean ====
section
/-! DEFINITION. The command TAIL (`42_tail.md`). -/

namespace Sys2Proof.Machine

/-- TAIL's effect with the tail bytes `t` read at `length` (R150): the packed words mixed in without a lane round,
`length` grows by the tail length, `ph` becomes TAILED. -/
def absorbTail (t : List Byte) (s : State) : State :=
  setPhase .tailed
    (setLanes (tailMix (s.h1, s.h2) (tailPack t)) (setLength (s.length + BitVec.ofNat 64 t.length) s))

/-- TAIL n (R150, R152). -/
def execTail (n : Nat) (s : State) : Result :=
  runCommand (tailCheck n s) (withMessageBytes n absorbTail) s

end Sys2Proof.Machine
end

