-- ==== Sys2Proof/Machine/Sequencer.lean ====
section
/-! DEFINITION. The sequencer (`44_sequencer.md`): the next-command function and the schedule of a message. -/

namespace Sys2Proof.Machine

/-- What the sequencer does next (R192). -/
inductive SeqChoice where
  /-- Nothing to issue. -/
  | nothing
  /-- Issue a command. -/
  | issue (i : Instr)
  /-- The assertion on the tail length fails: raise `Fault(TailLength)`. -/
  | assertFails
  deriving DecidableEq, Repr

/-- The sequencer is about to issue TAIL: its assertion that the tail length is in 1..15 (R192, R152). -/
def tailChoice (r : Int) : SeqChoice :=
  if (Config.tailMin : Int) ≤ r ∧ r ≤ (Config.tailMax : Int) then .issue (.tail r.toNat) else .assertFails

/-- The next-command function (R192). -/
def nextCommand (s : State) : SeqChoice :=
  if s.flt then .nothing
  else
    match s.ph with
    | .idle => if s.start then .issue .init else .nothing
    | .done => if s.start then .issue .init else .nothing
    | .absorb =>
      if (Config.blockBytes : Int) ≤ s.remaining then .issue .block
      else if 1 ≤ s.remaining then tailChoice s.remaining
      else .issue .final
    | .tailed => .issue .final

/-- The sequencer samples `start` in this state: `ph` IDLE or DONE and `flt = 0` (R210, R212). -/
def samplesStart (s : State) : Bool := !s.flt && !s.ph.isOpen

/-- `Schedule(N)` (R191): INIT, `floor(N/16)` times BLOCK, TAIL (N mod 16) unless that is 0, FINAL. -/
def schedule (n : Nat) : List Instr :=
  .init :: (List.replicate (n / Config.blockBytes) .block
    ++ ((if n % Config.blockBytes = 0 then [] else [.tail (n % Config.blockBytes)]) ++ [.final]))

end Sys2Proof.Machine
end

