-- ==== Sys2Proof/Machine/Drive.lean ====
section
/-! DEFINITION. The two ways to drive the engine (`45_host_interface.md` R211): one word of the command port, and one
choice of the sequencer. -/

namespace Sys2Proof.Machine

/-- Execute one command word (R90, R211 (b)): a legal word by its rule; an illegal word raises IllegalCommand in any
phase (R91, R232), or is ignored while `flt = 1` (R235, R237). -/
def runWord (w : Byte) (s : State) : Result :=
  match decode w with
  | .command i => exec i s
  | .illegal => runCommand (some .illegalCommand) (fun s => .next s) s

/-- The state with the words `ws` left on the command port. -/
def feed (ws : List Byte) (s : State) : State := { s with drive := .commandPort ws }

/-- One step at the command port: the next word is taken and executed; nothing happens where there is none (R260).
A word together with a `start` that would be sampled is refused (U15, log entry 6). -/
def commandPortStep (words : List Byte) (s : State) : Result :=
  match words with
  | [] => .next s
  | w :: ws =>
    if s.start && samplesStart s then .refused .bothDrivingModes
    else runWord w (feed ws s)

/-- What the sequencer's choice does: issue the command, nothing, or raise TailLength "instead of issuing anything" where
its assertion fails (R192); a stopped engine ignores that too (R28, R237). -/
def performChoice (c : SeqChoice) (s : State) : Result :=
  match c with
  | .nothing => .next s
  | .issue i => exec i s
  | .assertFails => runCommand (some .tailLength) (fun s => .next s) s

/-- One step of the sequencer (R192). -/
def sequencerStep (s : State) : Result := performChoice (nextCommand s) s

/-- The engine out of reset: the driving mode decides (R211). -/
def runningStep (s : State) : Result :=
  match s.drive with
  | .sequencer => sequencerStep s
  | .commandPort words => commandPortStep words s

/-- The state that presents the word `w` at the command port, with nothing in its way: `rst` and `start` low. -/
def presentWord (w : Byte) (s : State) : State := feed [w] { s with rst := false, start := false }

end Sys2Proof.Machine
end

