-- ==== Sys2Proof/Machine/Step.lean ====
section
/-! DEFINITION. One step of the machine: the reset while `rst` is asserted, else one command or nothing. -/

namespace Sys2Proof.Machine

/-- One step. While `rst = 1` the engine is put in its reset state (`70_reset_and_hazards.md` R260, "at any time";
log entry 10); otherwise the driving mode's next command is executed (R198, R211). -/
def step (s : State) : Host.Outcome State Fault Refusal :=
  if s.rst then .next (resetEngine s) else runningStep s

/-- The state whose next step executes the command word `w` of `nbits` bits: the word stands at the command port (log
entry 7). -/
def State.withFetchWord (s : State) (nbits w : Nat) : State := presentWord (tableWord nbits w) s

end Sys2Proof.Machine
end

