-- ==== Sys2Proof/Machine/HostPort.lean ====
section
/-! DEFINITION. The host's side (`45_host_interface.md`): the engine's outputs, reading the digest, and the moves a host
has. No step performs a host move; a move the spec does not give the host is refused. -/

namespace Sys2Proof.Machine

/-- The digest as the host reads it (R214): the 16 bytes while `done = 1`, else refused (R172, U9). -/
def readDigest (s : State) : Except Refusal (List Byte) :=
  if s.doneOut then
    match Memory.readBytes s.digest digestBase Config.digestBytes with
    | some bs => .ok bs
    | none => .error .digestNotValid
  else .error .digestNotValid

/-- The `digest` port as a 128-bit number: byte `i` in bits `8*i+7 : 8*i` (R210). -/
def digestPort (s : State) : Except Refusal (BitVec 128) :=
  match readDigest s with
  | .ok bs => .ok (le64 (bs.drop 8) ++ le64 (bs.take 8))
  | .error r => .error r

/-- A move of the host: drive a port, hand over a message, choose the driving mode (R210, R211, R262). -/
inductive HostMove where
  /-- Drive `rst`. -/
  | driveReset (level : Bool)
  /-- Drive `start`. -/
  | driveStart (level : Bool)
  /-- Drive `seed_in` with `seed_present = 1`. -/
  | driveSeed (v : SeedWord)
  /-- Drive `seed_present = 0`; `seed_in` keeps what it carries. -/
  | driveNoSeed
  /-- Drive `msg_len`. -/
  | driveLength (n : Word)
  /-- Place the message: its bytes at offsets 0, 1, .. and no others. -/
  | placeMessage (bytes : List Byte)
  /-- Let the sequencer drive. -/
  | useSequencer
  /-- Let the command port drive, no word on it yet. -/
  | useCommandPort
  /-- Supply command words, behind those still to be fed. -/
  | supplyWords (ws : List Byte)
  deriving DecidableEq, Repr

/-- Place the message: refused while a computation is open, since the bytes must not change from INIT to the end of FINAL
(`20_memory.md` R68, R215; log entry 11); and where 64-bit offsets cannot reach all its bytes (R64). -/
def placeMessageMove (bytes : List Byte) (s : State) : Except Refusal State :=
  if s.busyOut then .error .messageInUse
  else if bytes.length < messageSpan then .ok { s with msg := Memory.writeBytes [] 0 bytes }
  else .error .messageTooLong

/-- Choose the driving mode: refused while a computation is open (R211, U15; log entry 16). Words still waiting at the command
port are dropped unexecuted, also where the port is chosen again: DESIGN CHOICE (log entry 22, unsafe). -/
def chooseDriveMove (d : Drive) (s : State) : Except Refusal State :=
  if s.busyOut then .error .drivingModeFixed else .ok { s with drive := d }

/-- Supply command words: refused while the sequencer drives (R211, U15; log entry 16). -/
def supplyWordsMove (ws : List Byte) (s : State) : Except Refusal State :=
  match s.drive with
  | .commandPort words => .ok (feed (words ++ ws) s)
  | .sequencer => .error .drivingModeFixed

/-- Feed one command word behind those waiting; where the sequencer drives, the host first chooses the command port, if it may.
DESIGN CHOICE (log entry 20). -/
def feedWordMove (w : Byte) (s : State) : Except Refusal State :=
  match s.drive with
  | .commandPort _ => supplyWordsMove [w] s
  | .sequencer =>
    match chooseDriveMove (.commandPort []) s with
    | .ok t => supplyWordsMove [w] t
    | .error r => .error r

/-- Drive `rst`. Asserting it puts the engine in its reset state at once, "at any time" (R260), so that a computation it meets
is lost with no digest (R215, U14), however soon `rst` is released (log entry 10). -/
def driveResetMove (level : Bool) (s : State) : State :=
  if level then resetEngine { s with rst := true } else { s with rst := false }

/-- Perform a host move between two steps. -/
def hostMove (m : HostMove) (s : State) : Except Refusal State :=
  match m with
  | .driveReset level => .ok (driveResetMove level s)
  | .driveStart level => .ok { s with start := level }
  | .driveSeed v => .ok { s with seedPresent := true, seedIn := v }
  | .driveNoSeed => .ok { s with seedPresent := false }
  | .driveLength n => .ok { s with msgLen := n }
  | .placeMessage bytes => placeMessageMove bytes s
  | .useSequencer => chooseDriveMove .sequencer s
  | .useCommandPort => chooseDriveMove (.commandPort []) s
  | .supplyWords ws => supplyWordsMove ws s

end Sys2Proof.Machine
end

