-- ==== Sys2Proof/Machine/Asm.lean ====
section
/-! DEFINITION. The assembler (`30_encoding.md` Part C): one line's text, the pseudo-instructions' expansions, and a program
run line by line at the command port. -/

namespace Sys2Proof.Machine

/-- A line of assembler text (R94, R95). -/
inductive AsmLine where
  /-- An empty line, or a comment only. -/
  | blank
  /-- A mnemonic. -/
  | command (i : Instr)
  /-- Pseudo-instruction `BLOCKS q`. -/
  | blocks (q : Nat)
  /-- Pseudo-instruction `COMPUTE`. -/
  | computeAll
  /-- Directive `.seed`. -/
  | seed (v : SeedWord)
  /-- Directive `.noseed`. -/
  | noSeed
  /-- Directive `.msg`. -/
  | message (bytes : List Byte)
  deriving DecidableEq, Repr

/-- The commands a line expands to, where the current `.msg` has `n` bytes (R95). -/
def AsmLine.commands (n : Nat) : AsmLine → List Instr
  | .blank => []
  | .command i => [i]
  | .blocks q => List.replicate q .block
  | .computeAll => schedule n
  | .seed _ => []
  | .noSeed => []
  | .message _ => []

/-- The host moves a line makes (R94): only the directives make some, and they produce no command word. -/
def AsmLine.moves : AsmLine → List HostMove
  | .blank => []
  | .command _ => []
  | .blocks _ => []
  | .computeAll => []
  | .seed v => [.driveSeed v]
  | .noSeed => [.driveNoSeed]
  | .message bytes => [.placeMessage bytes, .driveLength (BitVec.ofNat 64 bytes.length)]

/-- Perform host moves in order; the first refusal ends it. -/
def hostMoves : List HostMove → State → Except Refusal State
  | [], s => .ok s
  | m :: ms, s =>
    match hostMove m s with
    | .ok s' => hostMoves ms s'
    | .error r => .error r

/-- Feed commands to the command port one by one, one step each (R211 (b)). Each is fed as its word `encode`, also a TAIL above
15, which no line of text gives (log entry 18). DESIGN CHOICE (log entry 20, safe): how the words reach the port, which R94 does
not say: as host moves, so that the runner is refused where the host is (an open computation that the sequencer drives), a word
waits behind those already there, and one fed while `rst = 1` stays waiting. -/
def runCommands : List Instr → State → Result
  | [], s => .next s
  | i :: is, s =>
    match feedWordMove (encode i) s with
    | .ok t =>
      match step t with
      | .next s' => runCommands is s'
      | .fault f => .fault f
      | .refused r => .refused r
    | .error r => .refused r

/-- Run one line: its directive's moves, then its commands for the message length on the port. -/
def runLine (l : AsmLine) (s : State) : Result :=
  match hostMoves l.moves s with
  | .ok s' => runCommands (l.commands s'.msgLen.toNat) s'
  | .error r => .refused r

/-- Run a program, line by line. -/
def runLines : List AsmLine → State → Result
  | [], s => .next s
  | l :: ls, s =>
    match runLine l s with
    | .next s' => runLines ls s'
    | .fault f => .fault f
    | .refused r => .refused r

/-! ### The text of a line -/

/-- A digit of base at most 16, upper or lower case. -/
def digitValue (c : Char) : Option Nat :=
  let n := c.toNat
  if 48 ≤ n ∧ n ≤ 57 then some (n - 48)
  else if 65 ≤ n ∧ n ≤ 70 then some (n - 55)
  else if 97 ≤ n ∧ n ≤ 102 then some (n - 87)
  else none

/-- The number a text of digits denotes in a base; none for another character. -/
def numberValue (base : Nat) (acc : Nat) : List Char → Option Nat
  | [] => some acc
  | c :: cs =>
    match digitValue c with
    | some d => if d < base then numberValue base (acc * base + d) cs else none
    | none => none

/-- A decimal operand (R94; log entry 14). -/
def decimalValue : List Char → Option Nat
  | [] => none
  | cs => numberValue 10 0 cs

/-- A hex byte: two hex digits (R94). -/
def hexByte : List Char → Option Byte
  | [a, b] => (numberValue 16 0 [a, b]).map (BitVec.ofNat 8)
  | _ => none

/-- The hex bytes of a `.msg` directive. -/
def hexBytes : List (List Char) → Option (List Byte)
  | [] => some []
  | t :: ts =>
    match hexByte t, hexBytes ts with
    | some b, some bs => some (b :: bs)
    | _, _ => none

/-- The word being read, if there is one; `current` holds it last character first. -/
def flushWord (current : List Char) : List (List Char) := if current.isEmpty then [] else [current.reverse]

/-- The words of a line, up to the comment `;` (R94): `current` holds the word being read, last character first. -/
def lineWords (current : List Char) : List Char → List (List Char)
  | [] => flushWord current
  | c :: cs =>
    if c = ';' then flushWord current
    else if c = ' ' ∨ c = '\t' then flushWord current ++ lineWords [] cs
    else lineWords (c :: current) cs

/-- A line from its words; none if it is no line of R94 or R95. A tail length above 15 has no command word (R87). -/
def lineOfWords (ws : List (List Char)) : Option AsmLine :=
  match ws with
  | [] => some .blank
  | head :: rest =>
    if head = ['.', 'm', 's', 'g'] then (hexBytes rest).map .message
    else if head = ['I', 'N', 'I', 'T'] ∧ rest = [] then some (.command .init)
    else if head = ['B', 'L', 'O', 'C', 'K'] ∧ rest = [] then some (.command .block)
    else if head = ['F', 'I', 'N', 'A', 'L'] ∧ rest = [] then some (.command .final)
    else if head = ['C', 'O', 'M', 'P', 'U', 'T', 'E'] ∧ rest = [] then some .computeAll
    else if head = ['.', 'n', 'o', 's', 'e', 'e', 'd'] ∧ rest = [] then some .noSeed
    else
      match rest with
      | [operand] =>
        match decimalValue operand with
        | some n =>
          if head = ['T', 'A', 'I', 'L'] ∧ n ≤ Config.tailMax then some (.command (.tail n))
          else if head = ['B', 'L', 'O', 'C', 'K', 'S'] then some (.blocks n)
          else if head = ['.', 's', 'e', 'e', 'd'] ∧ n < 2 ^ 32 then some (.seed (BitVec.ofNat 32 n))
          else none
        | none => none
      | _ => none

/-- Parse one line of assembler text (R94, R95). A line stands alone: the bytes of `.msg` do not run on over the following lines,
DESIGN CHOICE (log entry 19, safe). -/
def parseLine (text : List Char) : Option AsmLine := lineOfWords (lineWords [] text)

/-! ### Numbers as text, for the statements about lines -/

/-- The text of decimal digits, the most significant first. -/
def decimalText (ds : List (Fin 10)) : List Char := ds.map fun d => Char.ofNat (48 + d.val)

/-- The number that decimal digits denote. -/
def decimalNumber (ds : List (Fin 10)) : Nat := ds.foldl (fun n d => n * 10 + d.val) 0

/-- A hex digit, lower case. -/
def hexDigitText (d : Nat) : Char := if d < 10 then Char.ofNat (48 + d) else Char.ofNat (87 + d)

/-- Bytes as hex text, two digits each, a space before each byte. -/
def hexText (bs : List Byte) : List Char :=
  bs.flatMap fun b => [' ', hexDigitText (b.toNat / 16), hexDigitText (b.toNat % 16)]

end Sys2Proof.Machine
end

