-- ==== Sys2Proof/Machine/Compute.lean ====
section
/-! DEFINITION. COMPUTE (`44_sequencer.md` R193), the message-level operation as a pure function of the message bytes
and the optional seed. -/

namespace Sys2Proof.Machine

/-- Block number `i` of a message: the bytes at offsets `16*i` to `16*i+15` (R133, R191). -/
def messageBlock (msg : List Byte) (i : Nat) : List Byte := (msg.drop (Config.blockBytes * i)).take Config.blockBytes

/-- The lanes after the first `q` blocks (R193, the loop). -/
def blocksLanes (msg : List Byte) (seed : SeedWord) (q : Nat) : Word × Word :=
  (List.range q).foldl (fun lanes i => blockMix lanes (blockWords (messageBlock msg i))) (seedLanes seed)

/-- The lanes after all the message's bytes: the blocks, then the tail if there is one (R193). -/
def absorbedLanes (msg : List Byte) (seed : SeedWord) : Word × Word :=
  let q := msg.length / Config.blockBytes
  let lanes := blocksLanes msg seed q
  if msg.length % Config.blockBytes = 0 then lanes
  else tailMix lanes (tailPack (msg.drop (Config.blockBytes * q)))

/-- The final lanes `f1`, `f2` of a message (R193). DESIGN CHOICE (log entry 21, safe): total on every byte list; the spec's COMPUTE
ends at `N_MAX` (R64), and above that this function goes on, with the length modulo 2^64. -/
def computeLanes (msg : List Byte) (seed : SeedWord) : Word × Word :=
  finalMix (absorbedLanes msg seed) (BitVec.ofNat 64 msg.length)

/-- COMPUTE (R193): the 16-byte digest; an absent seed is `SEED_DEFAULT` (R194 (c)). For messages above `N_MAX`: log entry 21. -/
def compute (msg : List Byte) (seed : Option SeedWord) : List Byte :=
  digestOf (computeLanes msg (seed.getD Config.seedDefault))

end Sys2Proof.Machine
end

