-- ==== Sys2Proof/Safety.lean ====
section
/-! DEFINITION. What the statements call a good state, in the terms of the spec: the invariant of the registers, the
invariant that ties the lanes to the message, and the end of a run. -/

namespace Sys2Proof.Machine

/-- The message's first `n` bytes are placed, and are `bs`. -/
def State.Prefix (s : State) (n : Nat) (bs : List Byte) : Prop := Memory.readBytes s.msg 0 n = some bs

/-- The message is fully materialised (`20_memory.md` R51): all `mlen` bytes are placed. -/
def State.Materialised (s : State) : Prop := ∃ bs, s.Prefix s.mlen.toNat bs

/-- The registers' invariant: both memories in canonical form; a cause is recorded exactly while `flt = 1` (`10_state.md`
R27, R28); in a computation and after it `length <= mlen <= N_MAX` (`20_memory.md` R63); `length` a multiple of 16 in ABSORB
(R30); all bytes consumed in TAILED and DONE (R23); no digest byte in IDLE (R36); in DONE the digest space is the
encoding of the lanes (R32). -/
structure State.Inv (s : State) : Prop where
  message_wf : Memory.wf messageSpan s.msg = true
  digest_wf : Memory.wf digestSpan s.digest = true
  cause_iff : s.fcause = .noFault ↔ s.flt = false
  length_le : s.ph ≠ .idle → s.length.toNat ≤ s.mlen.toNat
  mlen_le : s.ph ≠ .idle → s.mlen.toNat ≤ s.cfg.nMax.toNat
  block_aligned : s.ph = .absorb → s.length.toNat % Config.blockBytes = 0
  all_consumed : s.ph = .tailed ∨ s.ph = .done → s.length = s.mlen
  idle_digest : s.ph = .idle → s.digest = []
  done_digest : s.ph = .done →
    Memory.readBytes s.digest digestBase Config.digestBytes = some (digestOf (s.h1, s.h2))

/-- The lanes are the pure function of the seed and the bytes consumed so far (`44_sequencer.md` R193): after the blocks in
ABSORB, after the tail in TAILED, finalised in DONE. -/
structure State.LanesInv (s : State) : Prop where
  absorb_lanes : s.ph = .absorb → ∃ bs, s.Prefix s.length.toNat bs ∧
    (s.h1, s.h2) = blocksLanes bs s.seed (s.length.toNat / Config.blockBytes)
  tailed_lanes : s.ph = .tailed → ∃ bs, s.Prefix s.mlen.toNat bs ∧ (s.h1, s.h2) = absorbedLanes bs s.seed
  done_lanes : s.ph = .done → ∃ bs, s.Prefix s.mlen.toNat bs ∧ (s.h1, s.h2) = computeLanes bs s.seed

/-- Ready for a computation (`70_reset_and_hazards.md` R262, `41_init_block.md` R130): out of reset, no fault, `ph` IDLE or
DONE, an acceptable `msg_len`, and the message `bs` placed. -/
structure State.ReadyFor (s : State) (bs : List Byte) : Prop where
  out_of_reset : s.rst = false
  no_fault : s.flt = false
  not_open : s.ph.isOpen = false
  length_ok : s.msgLen.toNat ≤ s.cfg.nMax.toNat
  placed : s.Prefix s.msgLen.toNat bs

/-- The seed the ports carry, as the optional argument of COMPUTE (R193). -/
def State.portSeed (s : State) : Option SeedWord := if s.seedPresent then some s.seedIn else none

/-- The end of a run (`44_sequencer.md` R195): DONE without a fault. -/
def State.EndOfRun (s : State) : Prop := s.ph = .done ∧ s.flt = false

/-- The phases that allow a command (`60_exceptions.md` R233, the column "allowed in"). -/
def allowedIn : Instr → List Phase
  | .init => [.idle, .done]
  | .block => [.absorb]
  | .tail _ => [.absorb]
  | .final => [.absorb, .tailed]

/-- The bytes remaining do not fit the command, or `msg_len > N_MAX` for INIT (`60_exceptions.md` R234). -/
def misframed (i : Instr) (s : State) : Prop :=
  match i with
  | .init => s.cfg.nMax.toNat < s.msgLen.toNat
  | .block => (s.mlen.toNat : Int) - (s.length.toNat : Int) < 16
  | .tail n => (s.mlen.toNat : Int) - (s.length.toNat : Int) ≠ (n : Int)
  | .final => (s.mlen.toNat : Int) - (s.length.toNat : Int) ≠ 0

/-- The message offsets a command reads (`20_memory.md` R54): none, or the run that starts at `length`. -/
def readsOffset (i : Instr) (s : State) (a : Nat) : Prop :=
  match i with
  | .init => False
  | .block => s.length.toNat ≤ a ∧ a < s.length.toNat + 16
  | .tail n => s.length.toNat ≤ a ∧ a < s.length.toNat + n
  | .final => False

/-- Apply a change to the next state of an outcome; a stop stays a stop. -/
def mapNext (g : State → State) : Result → Result
  | .next s => .next (g s)
  | .fault f => .fault f
  | .refused r => .refused r

/-- Run a list of commands in order (R198); the first stop ends it. -/
def execAll : List Instr → State → Result
  | [], s => .next s
  | i :: is, s =>
    match exec i s with
    | .next t => execAll is t
    | .fault f => .fault f
    | .refused r => .refused r

/-- The engine's registers, the digest space and the configuration of two states agree: they differ at most in what the
host drives. -/
def SameEngine (s t : State) : Prop :=
  s.h1 = t.h1 ∧ s.h2 = t.h2 ∧ s.length = t.length ∧ s.seed = t.seed ∧ s.mlen = t.mlen ∧ s.ph = t.ph ∧
    s.flt = t.flt ∧ s.fcause = t.fcause ∧ s.digest = t.digest ∧ s.cfg = t.cfg

/-- What the host drives or hands over is the same in two states (`45_host_interface.md` R210, R213). -/
def SameInputs (s t : State) : Prop :=
  s.rst = t.rst ∧ s.start = t.start ∧ s.seedPresent = t.seedPresent ∧ s.seedIn = t.seedIn ∧ s.msgLen = t.msgLen ∧
    s.drive = t.drive ∧ s.cfg = t.cfg ∧ ∀ a, Memory.read s.msg a = Memory.read t.msg a

end Sys2Proof.Machine
end

