-- ==== Sys2Proof/Certificates/Slice0/Obligations.lean ====
section
/-! DEFINITION. The statements for the provers, from the spec's numbered rules. -/

open Sys2Proof Sys2Proof.Machine

/-! ### Command words -/

/-- R90: the 256 command words by match and mask; every word no row matches is illegal; and TAIL 0 always raises TailLength,
or Sequence, which comes first. -/
def Obligations.CommandWordMap : Prop :=
  (∀ w : Byte,
    (w &&& 0xFF#8 = 0x10#8 → decode w = .command .init) ∧
    (w &&& 0xFF#8 = 0x20#8 → decode w = .command .block) ∧
    (w &&& 0xF0#8 = 0x30#8 → decode w = .command (.tail (w &&& 0x0F#8).toNat)) ∧
    (w &&& 0xFF#8 = 0x40#8 → decode w = .command .final) ∧
    (w &&& 0xFF#8 ≠ 0x10#8 → w &&& 0xFF#8 ≠ 0x20#8 → w &&& 0xF0#8 ≠ 0x30#8 → w &&& 0xFF#8 ≠ 0x40#8 →
      decode w = .illegal)) ∧
  ∀ s : State, s.flt = false →
    exec (.tail 0) s = .next { s with flt := true, fcause := if s.ph = .absorb then .tailLength else .sequence }

/-- R85, R90: words written out bit by bit decode to the commands they stand for; the all-zero and the all-ones word, and a
non-zero `n` field on BLOCK, are illegal (R91). -/
def Obligations.SpecWordsDecode : Prop :=
  decode 0b00010000#8 = .command .init ∧ decode 0b00100000#8 = .command .block ∧
  decode 0b00110000#8 = .command (.tail 0) ∧ decode 0b00110101#8 = .command (.tail 5) ∧
  decode 0b00111111#8 = .command (.tail 15) ∧ decode 0b01000000#8 = .command .final ∧
  decode 0b00000000#8 = .illegal ∧ decode 0b11111111#8 = .illegal ∧ decode 0b00100001#8 = .illegal

/-- R90, R93: a program of `m` encodable commands is `m` bytes and decodes to itself, and a program of bytes that decodes is
the one its commands encode to. -/
def Obligations.ProgramBytesRoundTrip : Prop :=
  (∀ is : List Instr, (∀ i ∈ is, i.wellFormed = true) →
    decodeProgram (encodeProgram is) = some is ∧ (encodeProgram is).length = is.length) ∧
  (∀ (ws : List Byte) (is : List Instr), decodeProgram ws = some is →
    encodeProgram is = ws ∧ ∀ i ∈ is, i.wellFormed = true)

/-! ### Steps -/

/-- R211 (b): at the command port, out of reset, the next word's command is executed, with the word taken off the port. (A
word meeting a `start` that would be sampled is refused, the next statement. That a word beside a `start` not sampled is executed
is the model's choice, log entry 6.) -/
def Obligations.StepRunsDecodedCommand : Prop :=
  ∀ (s : State) (w : Byte) (ws : List Byte) (i : Instr),
    s.rst = false → s.drive = .commandPort (w :: ws) →
    (s.start = false ∨ s.ph.isOpen = true ∨ s.flt = true) → decode w = .command i →
    step s = exec i { s with drive := .commandPort ws }

/-- U15 of `93_implementation_defined.md`: a command word and a `start` that would be sampled in the same step are refused.
(Log entry 6: only where R212 gives `start` an effect.) -/
def Obligations.BothDrivingModesRefused : Prop :=
  ∀ (s : State) (w : Byte) (ws : List Byte),
    s.rst = false → s.drive = .commandPort (w :: ws) → s.start = true → s.ph.isOpen = false → s.flt = false →
    step s = .refused .bothDrivingModes

/-- R232: a word outside the opcode map raises IllegalCommand in any phase and changes nothing else; the word is taken off
the port. (With `start` high: the next statement. In a stopped engine: StoppedUntilReset, for every word.) -/
def Obligations.IllegalWordRaisesIllegalCommand : Prop :=
  ∀ (s : State) (w : Byte) (ws : List Byte),
    s.rst = false → s.drive = .commandPort (w :: ws) → s.start = false → s.flt = false →
    w ≠ 0x10#8 → w ≠ 0x20#8 → w &&& 0xF0#8 ≠ 0x30#8 → w ≠ 0x40#8 →
    step s = .next { s with drive := .commandPort ws, flt := true, fcause := .illegalCommand }

/-- The model's choice (log entry 6, from R212 and R237): where `start` is high but would not be sampled, in an open computation
or in a stopped engine, a word outside the opcode map is taken off the port and treated as with `start` low: it raises
IllegalCommand, or is ignored while `flt = 1`. -/
def Obligations.IllegalWordUnderUnsampledStart : Prop :=
  ∀ (s : State) (w : Byte) (ws : List Byte),
    s.rst = false → s.drive = .commandPort (w :: ws) → s.start = true → (s.ph.isOpen = true ∨ s.flt = true) →
    w ≠ 0x10#8 → w ≠ 0x20#8 → w &&& 0xF0#8 ≠ 0x30#8 → w ≠ 0x40#8 →
    step s = .next (if s.flt then { s with drive := .commandPort ws }
      else { s with drive := .commandPort ws, flt := true, fcause := .illegalCommand })

/-- R192, R211 (a), R260: out of reset with the sequencer driving, a step executes the command the sequencer issues, and
changes nothing where it issues none. The last clause is the model's choice (log entry 4): at a command port without a word
nothing happens, and a `start` is not sampled there, whatever its level and the phase. -/
def Obligations.SequencerStepRunsItsChoice : Prop :=
  ∀ s : State, s.rst = false →
    (s.drive = .sequencer →
      (∀ i, nextCommand s = .issue i → step s = exec i s) ∧ (nextCommand s = .nothing → step s = .next s)) ∧
    (s.drive = .commandPort [] → step s = .next s)

/-- R192: the sequencer's next command in every state (in ABSORB and TAILED whatever `start` is), and its assertion: it fails
exactly outside 1..15, never in this function, and where it failed TailLength would be raised instead of a command, in an
engine that is not stopped already. That a negative difference gives FINAL is the model's choice (log entry 8). -/
def Obligations.SequencerNextCommand : Prop :=
  (∀ s : State,
    (s.flt = true → nextCommand s = .nothing) ∧
    (s.flt = false →
      (s.ph = .idle ∨ s.ph = .done → nextCommand s = if s.start then .issue .init else .nothing) ∧
      (s.ph = .absorb →
        (16 ≤ (s.mlen.toNat : Int) - s.length.toNat → nextCommand s = .issue .block) ∧
        (∀ n : Nat, 1 ≤ n → n ≤ 15 → (s.mlen.toNat : Int) - s.length.toNat = n → nextCommand s = .issue (.tail n)) ∧
        ((s.mlen.toNat : Int) - s.length.toNat ≤ 0 → nextCommand s = .issue .final)) ∧
      (s.ph = .tailed → nextCommand s = .issue .final)) ∧
    nextCommand s ≠ .assertFails) ∧
  (∀ r : Int, (r < 1 ∨ 15 < r → tailChoice r = .assertFails) ∧
    (1 ≤ r → r ≤ 15 → tailChoice r = .issue (.tail r.toNat))) ∧
  (∀ s : State,
    (s.flt = false → performChoice .assertFails s = .next { s with flt := true, fcause := .tailLength }) ∧
    (s.flt = true → performChoice .assertFails s = .next s))

/-- R212: `start = 1` in IDLE or DONE with no fault issues INIT; in any other state the level of `start` has no effect. -/
def Obligations.StartIsOnlyARequest : Prop :=
  ∀ s : State, s.rst = false → s.drive = .sequencer →
    (s.start = true → s.ph.isOpen = false → s.flt = false → step s = exec .init s) ∧
    (s.ph.isOpen = true ∨ s.flt = true → ∀ b : Bool,
      step { s with start := b } = mapNext (fun t => { t with start := b }) (step s))

/-! ### Reset -/

/-- R36, R260 (the values they give): after reset `ph = IDLE`, no fault, all outputs 0, no digest byte has a value and the
digest cannot be read. -/
def Obligations.ResetState : Prop :=
  State.reset.ph = .idle ∧ State.reset.flt = false ∧ State.reset.fcause.code = 0#3 ∧
  State.reset.doneOut = false ∧ State.reset.busyOut = false ∧ State.reset.faultOut = false ∧
  (∀ a, Memory.read State.reset.digest a = none) ∧ readDigest State.reset = .error .digestNotValid ∧
  State.reset.cfg.nMax.toNat = 2 ^ 64 - 1

/-- R260, U14: `rst = 1` in any state, in mid-computation or after a fault too, gives the reset state, with no digest; what
the host drives is unchanged (the model's choice, log entry 10). -/
def Obligations.ResetFromAnyState : Prop :=
  ∀ s : State, s.rst = true → ∃ t, step s = .next t ∧
    t.ph = .idle ∧ t.flt = false ∧ t.fcause = .noFault ∧ t.doneOut = false ∧ t.busyOut = false ∧ t.faultOut = false ∧
    (∀ a, Memory.read t.digest a = none) ∧ readDigest t = .error .digestNotValid ∧ SameInputs s t

/-! ### INIT -/

/-- R130: where no computation is open and `msg_len` is acceptable, INIT latches the ports and opens the computation. -/
def Obligations.InitCompletes : Prop :=
  ∀ s : State, s.flt = false → (s.ph = .idle ∨ s.ph = .done) → s.msgLen.toNat ≤ s.cfg.nMax.toNat →
    exec .init s = .next { s with
      seed := if s.seedPresent then s.seedIn else 0#32
      mlen := s.msgLen
      h1 := BitVec.setWidth 64 (if s.seedPresent then s.seedIn else 0#32)
      h2 := 0#64, length := 0#64, ph := .absorb }

/-- What INIT leaves unchanged: the digest space, all that the host drives, and without a new fault the cause. -/
def Obligations.InitFrame : Prop :=
  ∀ s t : State, exec .init s = .next t →
    (∀ a, Memory.read t.digest a = Memory.read s.digest a) ∧ SameInputs s t ∧ (t.flt = s.flt → t.fcause = s.fcause)

/-- R37 (a): two states with the same ports and the same `N_MAX`, whatever an earlier computation left in the registers, are
opened by INIT to the same five data registers and phase. -/
def Obligations.InitForgetsEarlierComputation : Prop :=
  ∀ s s' t t' : State, s.flt = false → s'.flt = false →
    s.seedPresent = s'.seedPresent → s.seedIn = s'.seedIn → s.msgLen = s'.msgLen → s.cfg = s'.cfg →
    exec .init s = .next t → exec .init s' = .next t' → t.flt = false → t'.flt = false →
    t.h1 = t'.h1 ∧ t.h2 = t'.h2 ∧ t.length = t'.length ∧ t.seed = t'.seed ∧ t.mlen = t'.mlen ∧ t.ph = t'.ph

/-- R194 (c), R130: an absent seed is seed 0, whatever `seed_in` carries, for the command and for COMPUTE (also of messages above
`N_MAX`, where COMPUTE is the model's choice, log entry 21). -/
def Obligations.AbsentSeedIsSeedZero : Prop :=
  (∀ (s : State) (v : SeedWord),
    exec .init { s with seedPresent := true, seedIn := 0#32 } =
      mapNext (fun t => { t with seedPresent := true, seedIn := 0#32 })
        (exec .init { s with seedPresent := false, seedIn := v })) ∧
  (∀ msg : List Byte, compute msg none = compute msg (some 0#32))

/-- R24, R39: no command but INIT reads the register `seed`, and INIT only overwrites it. -/
def Obligations.SeedRegisterIsNeverReread : Prop :=
  (∀ (i : Instr) (s : State) (v : SeedWord), i ≠ .init →
    exec i { s with seed := v } = mapNext (fun t => { t with seed := v }) (exec i s)) ∧
  (∀ (s : State) (v : SeedWord), initCheck s = none → s.flt = false → exec .init { s with seed := v } = exec .init s)

/-! ### BLOCK -/

/-- R131: in ABSORB with 16 bytes remaining and placed, BLOCK reads them at `length` and mixes both lanes, `h2` with the new
`h1`; `length` grows by 16. -/
def Obligations.BlockCompletes : Prop :=
  ∀ (s : State) (b : List Byte), s.flt = false → s.ph = .absorb → s.length.toNat + 16 ≤ s.mlen.toNat →
    Memory.readBytes s.msg s.length.toNat 16 = some b →
    let k1 := le64 (b.take 8)
    let k2 := le64 (b.drop 8)
    let x := (rotl64 (s.h1 ^^^ rotl64 (k1 * 0x87c37b91114253d5#64) 31 * 0x4cf5ad432745937f#64) 27 + s.h2) * 5#64
      + 0x52dce729#64
    let y := (rotl64 (s.h2 ^^^ rotl64 (k2 * 0x4cf5ad432745937f#64) 31 * 0x87c37b91114253d5#64) 33 + x) * 5#64
      + 0x38495ab5#64
    exec .block s = .next { s with length := s.length + 16#64, h1 := x, h2 := y }

/-- R132, R39: what BLOCK leaves unchanged: `seed`, `mlen`, `ph`, the digest space, all that the host drives, and without a
new fault the cause. -/
def Obligations.BlockFrame : Prop :=
  ∀ s t : State, exec .block s = .next t →
    t.seed = s.seed ∧ t.mlen = s.mlen ∧ t.ph = s.ph ∧
    (∀ a, Memory.read t.digest a = Memory.read s.digest a) ∧ SameInputs s t ∧ (t.flt = s.flt → t.fcause = s.fcause)

/-! ### TAIL -/

/-- R150: in ABSORB with exactly `n` bytes remaining and placed, 1 to 15, TAIL n packs them and mixes each lane with its own
key, no lane round; `length` grows by `n`. -/
def Obligations.TailCompletes : Prop :=
  ∀ (s : State) (n : Nat) (b : List Byte), s.flt = false → s.ph = .absorb → 1 ≤ n → n ≤ 15 →
    s.length.toNat + n = s.mlen.toNat → Memory.readBytes s.msg s.length.toNat n = some b →
    exec (.tail n) s = .next { s with
      length := s.length + BitVec.ofNat 64 n
      h1 := s.h1 ^^^ rotl64 ((tailPack b).1 * 0x87c37b91114253d5#64) 31 * 0x4cf5ad432745937f#64
      h2 := s.h2 ^^^ rotl64 ((tailPack b).2 * 0x4cf5ad432745937f#64) 31 * 0x87c37b91114253d5#64
      ph := .tailed }

/-- R57: tail byte `i` is byte `i` of `k1` for `i <= 7` and byte `i - 8` of `k2` for `i >= 8`, all other bytes are 0; this is
the little-endian reading of the tail padded with zero bytes to 16 bytes. -/
def Obligations.TailPackPlacesEveryByte : Prop :=
  ∀ t : List Byte, 1 ≤ t.length → t.length ≤ 15 →
    (∀ i < 8, (tailPack t).1.extractLsb' (8 * i) 8 = t.getD i 0#8) ∧
    (∀ i < 8, (tailPack t).2.extractLsb' (8 * i) 8 = t.getD (8 + i) 0#8) ∧
    tailPack t = (le64 ((t ++ List.replicate (16 - t.length) 0#8).take 8),
      le64 ((t ++ List.replicate (16 - t.length) 0#8).drop 8))

/-- R39: what TAIL leaves unchanged: `seed`, `mlen`, the digest space, all that the host drives, and without a new fault the
cause; and a tail of at most 8 bytes leaves `h2` (R150, corner case a). -/
def Obligations.TailFrame : Prop :=
  ∀ (n : Nat) (s t : State), exec (.tail n) s = .next t →
    t.seed = s.seed ∧ t.mlen = s.mlen ∧
    (∀ a, Memory.read t.digest a = Memory.read s.digest a) ∧ SameInputs s t ∧ (t.flt = s.flt → t.fcause = s.fcause) ∧
    (n ≤ 8 → t.h2 = s.h2)

/-! ### FINAL and the digest -/

/-- R170: in an open computation with no byte remaining, FINAL mixes the length in, cross-adds, avalanches, cross-adds and
writes the 16 digest bytes. -/
def Obligations.FinalCompletes : Prop :=
  ∀ s : State, s.flt = false → (s.ph = .absorb ∨ s.ph = .tailed) → s.length = s.mlen →
    let b1 := (s.h1 ^^^ s.length) + (s.h2 ^^^ s.length)
    let b2 := (s.h2 ^^^ s.length) + b1
    let f1 := avalanche b1 + avalanche b2
    let f2 := avalanche b2 + f1
    exec .final s = .next { s with
      h1 := f1, h2 := f2, ph := .done
      digest := Memory.writeBytes s.digest 0 (le64bytes f1 ++ le64bytes f2) }

/-- R83: after FINAL, digest byte `i` is byte `i` of `h1` and digest byte `8 + i` is byte `i` of `h2`. -/
def Obligations.DigestBytesAreTheLanes : Prop :=
  ∀ s t : State, s.flt = false → exec .final s = .next t → t.flt = false →
    ∀ i < 8, Memory.read t.digest i = some (t.h1.extractLsb' (8 * i) 8) ∧
      Memory.read t.digest (8 + i) = some (t.h2.extractLsb' (8 * i) 8)

/-- R39, R171: what FINAL leaves unchanged: `length`, `seed`, `mlen`, every digest offset outside the 16 bytes it stores from
`digestBase`, all that the host drives, and without a new fault the cause. -/
def Obligations.FinalFrame : Prop :=
  ∀ s t : State, exec .final s = .next t →
    t.length = s.length ∧ t.seed = s.seed ∧ t.mlen = s.mlen ∧
    (∀ a, a < digestBase ∨ digestBase + 16 ≤ a → Memory.read t.digest a = Memory.read s.digest a) ∧
    SameInputs s t ∧ (t.flt = s.flt → t.fcause = s.fcause)

/-- R172, R214, R32: in a state that meets the invariant the host can read the digest exactly while `ph = DONE` and `flt = 0`,
and then reads 16 bytes, the encoding of the lanes. -/
def Obligations.DigestReadableExactlyWhenDone : Prop :=
  ∀ s : State, s.Inv →
    (s.ph = .done ∧ s.flt = false →
      readDigest s = .ok (le64bytes s.h1 ++ le64bytes s.h2) ∧ (le64bytes s.h1 ++ le64bytes s.h2).length = 16) ∧
    (¬ (s.ph = .done ∧ s.flt = false) → readDigest s = .error .digestNotValid)

/-- R210: the `digest` port as a number is `h2 * 2^64 + h1`, while it can be read. -/
def Obligations.DigestPortIsTheLanes : Prop :=
  ∀ s : State, s.Inv → s.EndOfRun → ∃ v : BitVec 128, digestPort s = .ok v ∧
    v.toNat = s.h2.toNat * 2 ^ 64 + s.h1.toNat

/-- R172, R214: a digest that can be read stays readable and the same until a step opens the next computation, takes a fault
or is the reset. -/
def Obligations.DigestStaysUntilInitOrReset : Prop :=
  ∀ s t : State, s.EndOfRun → s.rst = false → step s = .next t →
    (t.EndOfRun ∧ readDigest t = readDigest s) ∨ (t.ph = .absorb ∧ t.flt = false) ∨ t.flt = true

/-- R29: the status outputs; at most one of them is 1. -/
def Obligations.StatusOutputs : Prop :=
  ∀ s : State,
    (s.doneOut = true ↔ s.ph = .done ∧ s.flt = false) ∧
    (s.busyOut = true ↔ (s.ph = .absorb ∨ s.ph = .tailed) ∧ s.flt = false) ∧
    (s.faultOut = true ↔ s.flt = true) ∧
    ¬ (s.doneOut = true ∧ s.busyOut = true) ∧ ¬ (s.doneOut = true ∧ s.faultOut = true) ∧
    ¬ (s.busyOut = true ∧ s.faultOut = true)

/-- R26, R28, R210, R230: the 2-bit code of each phase and the 3-bit code of each cause, as the port `fcause` shows it; the codes
5 to 7 never show. -/
def Obligations.PhaseAndCauseCodes : Prop :=
  ∀ s : State,
    (s.ph.code = 0b00#2 ↔ s.ph = .idle) ∧ (s.ph.code = 0b01#2 ↔ s.ph = .absorb) ∧
    (s.ph.code = 0b10#2 ↔ s.ph = .tailed) ∧ (s.ph.code = 0b11#2 ↔ s.ph = .done) ∧
    (s.fcauseOut = 0#3 ↔ s.fcause = .noFault) ∧ (s.fcauseOut = 1#3 ↔ s.fcause = .tailLength) ∧
    (s.fcauseOut = 2#3 ↔ s.fcause = .illegalCommand) ∧ (s.fcauseOut = 3#3 ↔ s.fcause = .sequence) ∧
    (s.fcauseOut = 4#3 ↔ s.fcause = .framing) ∧ s.fcauseOut.toNat ≤ 4

/-! ### Faults -/

/-- R233: a command in a phase that does not allow it raises Sequence and does nothing else; in a phase that allows it, no
command raises Sequence. -/
def Obligations.SequenceFaultTable : Prop :=
  ∀ (i : Instr) (s : State), s.flt = false →
    (s.ph ∉ allowedIn i → exec i s = .next { s with flt := true, fcause := .sequence }) ∧
    (s.ph ∈ allowedIn i → ∀ t, exec i s = .next t → t.flt = true → t.fcause ≠ .sequence)

/-- R234: in an allowed phase, with a tail length of 1 to 15 for TAIL, a command the remaining bytes do not fit, or INIT with
`msg_len > N_MAX`, raises Framing and does nothing else; where they fit, no command raises Framing. -/
def Obligations.FramingFaults : Prop :=
  ∀ (i : Instr) (s : State), s.flt = false → s.ph ∈ allowedIn i → (∀ n, i = .tail n → 1 ≤ n ∧ n ≤ 15) →
    (misframed i s → exec i s = .next { s with flt := true, fcause := .framing }) ∧
    (¬ misframed i s → ∀ t, exec i s = .next t → t.flt = false)

/-- R231, R150, R152: TAIL with a length outside 1..15 in ABSORB raises TailLength whatever remains, and so does the command
word `30`. For lengths above 15, which no word encodes, this is the model's choice (log entry 12); so is that the step on the
word `30` does so with `start` high too, which is not sampled in ABSORB (log entry 6, from R212). -/
def Obligations.TailLengthFault : Prop :=
  (∀ (s : State) (n : Nat), s.flt = false → s.ph = .absorb → (n = 0 ∨ 15 < n) →
    exec (.tail n) s = .next { s with flt := true, fcause := .tailLength }) ∧
  (∀ (s : State) (ws : List Byte), s.flt = false → s.ph = .absorb → s.rst = false →
    s.drive = .commandPort (0x30#8 :: ws) →
    step s = .next { s with drive := .commandPort ws, flt := true, fcause := .tailLength })

/-- R235: the fault a command word reports is the first of: stopped already (ignored), IllegalCommand, Sequence, TailLength,
Framing. -/
def Obligations.FaultPriority : Prop :=
  ∀ (w : Byte) (s : State),
    (s.flt = true → runWord w s = .next s) ∧
    (s.flt = false → decode w = .illegal → runWord w s = .next { s with flt := true, fcause := .illegalCommand }) ∧
    (∀ i, s.flt = false → decode w = .command i →
      (s.ph ∉ allowedIn i → runWord w s = .next { s with flt := true, fcause := .sequence }) ∧
      (s.ph ∈ allowedIn i →
        (i = .tail 0 → runWord w s = .next { s with flt := true, fcause := .tailLength }) ∧
        (i ≠ .tail 0 → misframed i s → runWord w s = .next { s with flt := true, fcause := .framing }) ∧
        (i ≠ .tail 0 → ¬ misframed i s → ∀ t, runWord w s = .next t → t.flt = false)))

/-- R236: a command that raises a fault sets `flt` and `fcause` and does nothing else: no register, no digest byte is written,
and no message byte is read (the same happens for every message). The same for every command word, legal or not. -/
def Obligations.FaultEntryExactly : Prop :=
  (∀ (i : Instr) (s t : State), s.flt = false → exec i s = .next t → t.flt = true →
    t.fcause ≠ .noFault ∧ t = { s with flt := true, fcause := t.fcause } ∧
    t.faultOut = true ∧ t.doneOut = false ∧ t.busyOut = false ∧
    ∀ m : Memory, exec i { s with msg := m } = .next { t with msg := m }) ∧
  (∀ (w : Byte) (s t : State), s.flt = false → runWord w s = .next t → t.flt = true →
    t.fcause ≠ .noFault ∧ t = { s with flt := true, fcause := t.fcause } ∧
    ∀ m : Memory, runWord w { s with msg := m } = .next { t with msg := m })

/-- R237: while `flt = 1` every command and every `start` is ignored, no digest can be read, and only the reset clears the
fault. At the command port one word is taken per step (R211), in a stopped engine too and whatever `start`: the model's choice
(log entries 4 and 6). -/
def Obligations.StoppedUntilReset : Prop :=
  (∀ (i : Instr) (s : State), s.flt = true → exec i s = .next s) ∧
  (∀ s : State, s.flt = true → s.rst = false →
    (∀ (w : Byte) (ws : List Byte), s.drive = .commandPort (w :: ws) → step s = .next { s with drive := .commandPort ws }) ∧
    (s.drive = .sequencer ∨ s.drive = .commandPort [] → step s = .next s)) ∧
  (∀ s : State, s.flt = true → readDigest s = .error .digestNotValid) ∧
  (∀ s t : State, s.flt = true → step s = .next t → t.flt = false → s.rst = true)

/-! ### Whole-machine rules -/

/-- R26, R38: the phase changes only by INIT from IDLE or DONE to ABSORB, by TAIL from ABSORB to TAILED, by FINAL from ABSORB
or TAILED to DONE. -/
def Obligations.PhaseLifecycle : Prop :=
  ∀ (i : Instr) (s t : State), exec i s = .next t → t.ph ≠ s.ph →
    (i = .init ∧ (s.ph = .idle ∨ s.ph = .done) ∧ t.ph = .absorb) ∨
    (∃ n, i = .tail n ∧ s.ph = .absorb ∧ t.ph = .tailed) ∨
    (i = .final ∧ (s.ph = .absorb ∨ s.ph = .tailed) ∧ t.ph = .done)

/-- R54: which command reaches which space. A command's outcome depends on no message byte outside the run it reads (none for
INIT and FINAL, 16 bytes at `length` for BLOCK, `n` for TAIL n); only FINAL writes the digest space, and it writes the 16 bytes
at offsets 0 to 15. -/
def Obligations.SpacesReached : Prop :=
  (∀ (i : Instr) (s : State) (m : Memory), (∀ a, readsOffset i s a → Memory.read m a = Memory.read s.msg a) →
    exec i { s with msg := m } = mapNext (fun t => { t with msg := m }) (exec i s)) ∧
  (∀ (i : Instr) (s t : State), i ≠ .final → exec i s = .next t → t.digest = s.digest) ∧
  (∀ s t : State, exec .final s = .next t → t.flt = false →
    (∀ a, a < 16 → (Memory.read t.digest a).isSome = true) ∧
    (∀ a, 16 ≤ a → Memory.read t.digest a = Memory.read s.digest a))

/-- R74: no read outside the message: no step stops for one, and a BLOCK or TAIL that does not fit raises Framing. -/
def Obligations.NoReadOutsideTheMessage : Prop :=
  (∀ s : State, step s ≠ .fault .readOutsideMessage) ∧
  (∀ s : State, s.flt = false → s.ph = .absorb →
    (s.mlen.toNat < s.length.toNat + 16 → exec .block s = .next { s with flt := true, fcause := .framing }) ∧
    (∀ n, 1 ≤ n → n ≤ 15 → s.length.toNat + n ≠ s.mlen.toNat →
      exec (.tail n) s = .next { s with flt := true, fcause := .framing }))

/-- R194 (b), R51: with every byte of the message placed, no step stops: every state of one driving mode has a next state. -/
def Obligations.PlacedMessageNeverStops : Prop :=
  ∀ s : State, (∀ a, a < s.mlen.toNat → (Memory.read s.msg a).isSome = true) →
    (s.drive = .sequencer ∨ s.start = false) → ∃ t, step s = .next t

/-- The form BLOCK and TAIL stop on (log entry 2): a command that fits the message (R131, R150) but meets a byte the host never
placed stops with messageByteAbsent; the spec gives such a run no meaning (R51, R68). -/
def Obligations.UnplacedByteStops : Prop :=
  ∀ (s : State) (n : Nat), s.flt = false → s.ph = .absorb →
    (∃ a, s.length.toNat ≤ a ∧ a < s.length.toNat + n ∧ Memory.read s.msg a = none) →
    (n = 16 → s.length.toNat + 16 ≤ s.mlen.toNat → exec .block s = .fault .messageByteAbsent) ∧
    (1 ≤ n → n ≤ 15 → s.length.toNat + n = s.mlen.toNat → exec (.tail n) s = .fault .messageByteAbsent)

/-- The registers' invariant and the lanes' invariant hold after reset. -/
def Obligations.ResetMeetsInvariants : Prop := State.reset.Inv ∧ State.reset.LanesInv

/-- R23, R27, R28, R30, R32, R36, R63: every step keeps the registers' invariant, from every state that meets it. (The
memories' canonical form and the empty digest space in IDLE are the model's: log entries 2 and 13.) -/
def Obligations.StepKeepsRegisterInvariant : Prop := ∀ s t : State, s.Inv → step s = .next t → t.Inv

/-- R193 as an invariant: every step keeps the lanes the pure function of the seed and the message bytes consumed, up to the
finalised lanes of COMPUTE in DONE. -/
def Obligations.StepKeepsLanesInvariant : Prop :=
  ∀ s t : State, s.Inv → s.LanesInv → step s = .next t → t.LanesInv

/-- R68, R215, R262: a host move keeps the registers' invariant, leaves the message alone while a computation is open and, unless
it asserts `rst`, writes no register of the engine and no digest byte. -/
def Obligations.HostMovesWriteNoRegister : Prop :=
  ∀ (m : HostMove) (s t : State), hostMove m s = .ok t →
    (s.Inv → t.Inv) ∧ (s.busyOut = true → t.msg = s.msg) ∧ (m ≠ .driveReset true → SameEngine s t)

/-- R260, R215, U14: asserting `rst` in any state, in mid-computation too, loses the computation at once: no digest can be read,
and after releasing `rst`, with no step between, the engine is in its reset state and has none either. What else the host drives
is unchanged (the model's choice, log entry 10). -/
def Obligations.AssertingResetLosesTheComputation : Prop :=
  ∀ s : State, ∃ t u : State, hostMove (.driveReset true) s = .ok t ∧ hostMove (.driveReset false) t = .ok u ∧
    t.rst = true ∧ u.rst = false ∧
    ∀ v : State, v = t ∨ v = u →
      v.ph = .idle ∧ v.flt = false ∧ v.fcause = .noFault ∧ v.doneOut = false ∧ v.busyOut = false ∧ v.faultOut = false ∧
      (∀ a, Memory.read v.digest a = none) ∧ readDigest v = .error .digestNotValid ∧
      SameInputs { s with rst := v.rst } v

/-! ### The schedule and COMPUTE -/

/-- R191: the schedule's length and command words, for every message length. -/
def Obligations.ScheduleWords : Prop :=
  ∀ n : Nat,
    (schedule n).length = 2 + n / 16 + (if n % 16 = 0 then 0 else 1) ∧
    encodeProgram (schedule n) = 0x10#8 :: (List.replicate (n / 16) 0x20#8 ++
      ((if n % 16 = 0 then [] else [0x30#8 + BitVec.ofNat 8 (n % 16)]) ++ [0x40#8])) ∧
    ∀ i ∈ schedule n, i.wellFormed = true

/-- R191: INIT followed by commands other than INIT that end in DONE without a fault is the schedule of the message length:
there is no other fault-free command sequence. -/
def Obligations.ScheduleIsTheOnlyFaultFreeSequence : Prop :=
  ∀ (s t : State) (is : List Instr), s.flt = false → .init ∉ is → execAll (.init :: is) s = .next t → t.EndOfRun →
    .init :: is = schedule s.msgLen.toNat

/-- R193, R194, R195: from a state ready for a message, with `start` raised, the sequencer's run of as many steps as the
schedule has commands ends the run, and the digest is COMPUTE of the message and the seed. -/
def Obligations.SequencerRunComputes : Prop :=
  ∀ (s : State) (msg : List Byte), s.ReadyFor msg → s.drive = .sequencer → s.start = true →
    ∃ t : State, Host.Core.run core (2 + msg.length / 16 + (if msg.length % 16 = 0 then 0 else 1)) s = .next t ∧
      t.EndOfRun ∧ t.length = t.mlen ∧ readDigest t = .ok (compute msg s.portSeed)

/-- R193, R211 (b): the same digest when the words of the schedule are fed to the command port. -/
def Obligations.CommandPortRunComputes : Prop :=
  ∀ (s : State) (msg : List Byte), s.ReadyFor msg → s.start = false →
    s.drive = .commandPort (encodeProgram (schedule msg.length)) →
    ∃ t : State, Host.Core.run core (schedule msg.length).length s = .next t ∧
      t.EndOfRun ∧ t.drive = .commandPort [] ∧ readDigest t = .ok (compute msg s.portSeed)

/-- R173: the digest of the empty message is the encoding of twice and three times the avalanche of the seed; it is sixteen
zero bytes exactly for seed 0. -/
def Obligations.EmptyMessageDigest : Prop :=
  ∀ seed : SeedWord,
    compute [] (some seed) = le64bytes (2#64 * avalanche (seed.setWidth 64)) ++
      le64bytes (3#64 * avalanche (seed.setWidth 64)) ∧
    (compute [] (some seed) = List.replicate 16 0#8 ↔ seed = 0#32)

/-! ### The datapath units -/

/-- R103: a left rotation by `r`, `0 < r < 64`: its value, where bit `i` goes, its inverse, and the two fixed words. -/
def Obligations.LeftRotation : Prop :=
  ∀ (a : Word) (r : Nat), 0 < r → r < 64 →
    (rotl64 a r).toNat = a.toNat * 2 ^ r % 2 ^ 64 + a.toNat / 2 ^ (64 - r) ∧
    (∀ i < 64, (rotl64 a r).getLsbD ((i + r) % 64) = a.getLsbD i) ∧
    rotl64 (rotl64 a r) (64 - r) = a ∧
    rotl64 0#64 r = 0#64 ∧ rotl64 0xFFFFFFFFFFFFFFFF#64 r = 0xFFFFFFFFFFFFFFFF#64

/-- R104: a right rotation by `r` is the left rotation by `64 - r`, and moves bit `i` to bit `(i - r) mod 64`. -/
def Obligations.RightRotation : Prop :=
  ∀ (a : Word) (r : Nat), 0 < r → r < 64 →
    rotr64 a r = rotl64 a (64 - r) ∧ ∀ i < 64, (rotr64 a r).getLsbD ((i + 64 - r) % 64) = a.getLsbD i

/-- R105: the right shift is the floor of the division by `2^r`; by 33 the result is below `2^31`. -/
def Obligations.RightShift : Prop :=
  ∀ (a : Word) (r : Nat), (shr64 a r).toNat = a.toNat / 2 ^ r ∧ (shr64 a 33).toNat < 2 ^ 31

/-- R110, R111: the two key mixers, their value for 0, and that they are bijections on 64-bit words. -/
def Obligations.KeyMixers : Prop :=
  (∀ k : Word,
    mixKey1 k = rotl64 (k * 0x87c37b91114253d5#64) 31 * 0x4cf5ad432745937f#64 ∧
    mixKey2 k = rotl64 (k * 0x4cf5ad432745937f#64) 31 * 0x87c37b91114253d5#64) ∧
  mixKey1 0#64 = 0#64 ∧ mixKey2 0#64 = 0#64 ∧ Function.Bijective mixKey1 ∧ Function.Bijective mixKey2

/-- R112: the round-constant adder is `5 * h + c` modulo `2^64`, and a bijection in `h`. -/
def Obligations.RoundConstantAdder : Prop :=
  ∀ c : BitVec 32, (∀ h : Word, (mul5add h c).toNat = (h.toNat * 5 + c.toNat) % 2 ^ 64) ∧
    Function.Bijective fun h => mul5add h c

/-- R115: the avalanche unit, stage by stage; it is a bijection on 64-bit words, and gives 0 only for 0. -/
def Obligations.AvalancheUnit : Prop :=
  (∀ k : Word,
    let s1 := k ^^^ (k >>> 33)
    let s2 := s1 * 0xff51afd7ed558ccd#64
    let s3 := s2 ^^^ (s2 >>> 33)
    let s4 := s3 * 0xc4ceb9fe1a85ec53#64
    avalanche k = s4 ^^^ (s4 >>> 33)) ∧
  Function.Bijective avalanche ∧ ∀ k : Word, avalanche k = 0#64 ↔ k = 0#64

/-- R80, R14: the bytes of a word, lowest first, and LE64 as the weighted sum of 8 bytes and the inverse of LE64bytes. -/
def Obligations.WordFormat : Prop :=
  (∀ w : Word, le64bytes w = [w.extractLsb' 0 8, w.extractLsb' 8 8, w.extractLsb' 16 8, w.extractLsb' 24 8,
    w.extractLsb' 32 8, w.extractLsb' 40 8, w.extractLsb' 48 8, w.extractLsb' 56 8] ∧ le64 (le64bytes w) = w) ∧
  (∀ b : List Byte, b.length = 8 → le64bytes (le64 b) = b ∧
    (le64 b).toNat = ((List.range 8).map fun i => (b.getD i 0#8).toNat * 2 ^ (8 * i)).sum)

/-! ### The assembler -/

/-- R94, R95: what each parsed line stands for, where the current message has `n` bytes: a mnemonic is its command, `BLOCKS q` is
`q` BLOCK, `COMPUTE` is the schedule, a directive produces no command word, and every line whose commands have words (R87) encodes to one word
per command, which decode to its commands. That
`.noseed` lets `seed_in` carry what it carried is the model's choice (log entry 14). -/
def Obligations.AssemblerExpansions : Prop :=
  ∀ n : Nat,
    (∀ i, AsmLine.commands n (.command i) = [i]) ∧
    (∀ q, AsmLine.commands n (.blocks q) = List.replicate q .block) ∧
    (AsmLine.commands n .computeAll = [.init] ++ List.replicate (n / 16) .block ++
      (if n % 16 = 0 then [] else [.tail (n % 16)]) ++ [.final]) ∧
    (∀ q, encodeProgram (AsmLine.commands n (.blocks q)) = List.replicate q 0x20#8) ∧
    (∀ l : AsmLine, (∀ i ∈ l.commands n, i.wellFormed = true) →
      (encodeProgram (l.commands n)).length = (l.commands n).length ∧
      decodeProgram (encodeProgram (l.commands n)) = some (l.commands n)) ∧
    AsmLine.commands n .blank = [] ∧ (∀ v, AsmLine.commands n (.seed v) = []) ∧ AsmLine.commands n .noSeed = [] ∧
    (∀ bs, AsmLine.commands n (.message bs) = []) ∧
    (∀ (s : State) (v : SeedWord), hostMoves (AsmLine.moves (.seed v)) s =
      .ok { s with seedPresent := true, seedIn := v }) ∧
    (∀ s : State, hostMoves (AsmLine.moves .noSeed) s = .ok { s with seedPresent := false }) ∧
    (∀ (s : State) (bs : List Byte), s.busyOut = false → bs.length < 2 ^ 64 →
      ∃ t, hostMoves (AsmLine.moves (.message bs)) s = .ok t ∧ t.msgLen.toNat = bs.length ∧
        Memory.readBytes t.msg 0 bs.length = some bs ∧ SameEngine s t)

/-- R94, R95, R87: what a line's text parses to: a comment is dropped, each mnemonic and directive is its line, a decimal operand
is its number (a TAIL above 15 and a seed of 2^32 or more are no line), and `.msg` takes any number of hex bytes. The model's
choice (log entry 14): the digits are decimal for BLOCKS and `.seed` too, a byte is two hex digits. -/
def Obligations.AssemblerText : Prop :=
  (∀ text comment : List Char, parseLine (text ++ ';' :: comment) = parseLine text) ∧
  parseLine [] = some .blank ∧
  parseLine ['I', 'N', 'I', 'T'] = some (.command .init) ∧
  parseLine ['B', 'L', 'O', 'C', 'K'] = some (.command .block) ∧
  parseLine ['F', 'I', 'N', 'A', 'L'] = some (.command .final) ∧
  parseLine ['C', 'O', 'M', 'P', 'U', 'T', 'E'] = some .computeAll ∧
  parseLine ['.', 'n', 'o', 's', 'e', 'e', 'd'] = some .noSeed ∧
  (∀ ds : List (Fin 10), ds ≠ [] →
    parseLine (['T', 'A', 'I', 'L', ' '] ++ decimalText ds) =
      (if decimalNumber ds ≤ 15 then some (.command (.tail (decimalNumber ds))) else none) ∧
    parseLine (['B', 'L', 'O', 'C', 'K', 'S', ' '] ++ decimalText ds) = some (.blocks (decimalNumber ds)) ∧
    parseLine (['.', 's', 'e', 'e', 'd', ' '] ++ decimalText ds) =
      (if decimalNumber ds < 2 ^ 32 then some (.seed (BitVec.ofNat 32 (decimalNumber ds))) else none)) ∧
  (∀ bs : List Byte, parseLine (['.', 'm', 's', 'g'] ++ hexText bs) = some (.message bs))
end

