-- ==== Sys2Proof/Laws/Memory.lean ====
section
/-! SUPPORT. The laws of memory: the canonical form is kept by every operation, a read after a write gives the value
written, a write leaves every other offset alone, and the same for runs of bytes. -/

namespace Sys2Proof.Machine

@[simp] theorem wfFrom_nil (lo bound : Nat) : Memory.wfFrom lo bound [] = true := rfl

@[simp] theorem wfFrom_cons (lo bound a : Nat) (v : Byte) (m : Memory) :
    Memory.wfFrom lo bound ((a, v) :: m) = true ↔ lo ≤ a ∧ a < bound ∧ Memory.wfFrom (a + 1) bound m = true := by
  simp [Memory.wfFrom, and_assoc]

theorem wfFrom_write {bound a : Nat} (v : Byte) (ha : a < bound) :
    ∀ {lo : Nat} {m : Memory}, lo ≤ a → Memory.wfFrom lo bound m = true →
      Memory.wfFrom lo bound (Memory.write m a v) = true
  | lo, [], hlo, _ => by simp [Memory.write, hlo, ha]
  | lo, (b, w) :: m, hlo, h => by
    obtain ⟨h1, h2, h3⟩ := (wfFrom_cons ..).1 h
    unfold Memory.write
    split
    · simpa [hlo, ha, h2] using ⟨by omega, h3⟩
    · split
      · simp_all
      · simpa [h1, h2] using wfFrom_write v ha (by omega) h3

theorem wf_nil (bound : Nat) : Memory.wf bound [] = true := rfl

/-- A write inside the space keeps the canonical form. -/
theorem wf_write {bound a : Nat} {m : Memory} (v : Byte) (ha : a < bound) (h : Memory.wf bound m = true) :
    Memory.wf bound (Memory.write m a v) = true :=
  wfFrom_write v ha (Nat.zero_le a) h

/-- A run of writes inside the space keeps the canonical form. -/
theorem wf_writeBytes {bound : Nat} :
    ∀ {bs : List Byte} {m : Memory} {a : Nat}, a + bs.length ≤ bound → Memory.wf bound m = true →
      Memory.wf bound (Memory.writeBytes m a bs) = true
  | [], _, _, _, h => h
  | b :: bs, m, a, ha, h => by
    simp only [List.length_cons] at ha
    have hb : Memory.wf bound (Memory.write m a b) = true := wf_write b (by omega) h
    exact wf_writeBytes (bs := bs) (a := a + 1) (by omega) hb

@[simp] theorem read_write_same (m : Memory) (a : Nat) (v : Byte) : Memory.read (Memory.write m a v) a = some v := by
  induction m with
  | nil => simp [Memory.write, Memory.read]
  | cons c m ih =>
    obtain ⟨b, w⟩ := c
    unfold Memory.write
    split
    · simp [Memory.read]
    · split
      · simp [Memory.read]
      · simp [Memory.read, *]

theorem read_write_other (m : Memory) {a c : Nat} (v : Byte) (h : c ≠ a) :
    Memory.read (Memory.write m a v) c = Memory.read m c := by
  induction m with
  | nil => simp [Memory.write, Memory.read, h]
  | cons d m ih =>
    obtain ⟨b, w⟩ := d
    unfold Memory.write
    split
    · simp [Memory.read, h]
    · split
      · subst_vars; simp [Memory.read, h]
      · simp [Memory.read, ih]

/-- A run of writes leaves every offset outside it alone. -/
theorem read_writeBytes_outside {c : Nat} :
    ∀ {bs : List Byte} {m : Memory} {a : Nat}, c < a ∨ a + bs.length ≤ c →
      Memory.read (Memory.writeBytes m a bs) c = Memory.read m c
  | [], _, _, _ => rfl
  | b :: bs, m, a, h => by
    simp only [List.length_cons] at h
    simp only [Memory.writeBytes]
    rw [read_writeBytes_outside (by omega), read_write_other _ _ (by omega)]

/-- A run of bytes read back where it was written. -/
theorem readBytes_writeBytes_same :
    ∀ (bs : List Byte) (m : Memory) (a : Nat), Memory.readBytes (Memory.writeBytes m a bs) a bs.length = some bs
  | [], _, _ => rfl
  | b :: bs, m, a => by
    simp only [Memory.writeBytes, List.length_cons, Memory.readBytes,
      read_writeBytes_outside (c := a) (a := a + 1) (bs := bs) (by omega), read_write_same,
      readBytes_writeBytes_same bs _ (a + 1)]

/-- What a run of reads answers, byte by byte. -/
theorem readBytes_eq_some {m : Memory} :
    ∀ {n a : Nat} {bs : List Byte}, Memory.readBytes m a n = some bs ↔
      bs.length = n ∧ ∀ i, (h : i < bs.length) → Memory.read m (a + i) = some bs[i]
  | 0, a, bs => by
    cases bs <;> simp [Memory.readBytes]
  | n + 1, a, bs => by
    have ih := @readBytes_eq_some m n (a + 1)
    cases bs with
    | nil => cases h1 : Memory.read m a <;> cases h2 : Memory.readBytes m (a + 1) n <;> simp [Memory.readBytes, h1, h2]
    | cons b bs =>
      have key : Memory.readBytes m a (n + 1) = some (b :: bs) ↔
          Memory.read m a = some b ∧ Memory.readBytes m (a + 1) n = some bs := by
        cases h1 : Memory.read m a <;> cases h2 : Memory.readBytes m (a + 1) n <;> simp [Memory.readBytes, h1, h2]
      rw [key, ih]
      constructor
      · rintro ⟨h0, hl, hr⟩
        refine ⟨by simp [hl], fun i hi => ?_⟩
        cases i with
        | zero => simpa using h0
        | succ i => simpa [Nat.add_assoc, Nat.add_comm 1 i] using hr i (by simpa using hi)
      · rintro ⟨hl, hr⟩
        refine ⟨hr 0 (by simp), by simpa using hl, fun i hi => ?_⟩
        have := hr (i + 1) (by simpa using hi)
        rwa [show a + (i + 1) = a + 1 + i by omega] at this

theorem readBytes_length {m : Memory} {a n : Nat} {bs : List Byte} (h : Memory.readBytes m a n = some bs) :
    bs.length = n :=
  (readBytes_eq_some.1 h).1

/-- A run of reads looks at no byte outside the run. -/
theorem readBytes_congr {m m' : Memory} : ∀ {n a : Nat},
    (∀ x, a ≤ x → x < a + n → Memory.read m x = Memory.read m' x) →
      Memory.readBytes m a n = Memory.readBytes m' a n
  | 0, _, _ => rfl
  | n + 1, a, h => by
    have hrest : Memory.readBytes m (a + 1) n = Memory.readBytes m' (a + 1) n :=
      readBytes_congr fun x h1 h2 => h x (by omega) (by omega)
    simp only [Memory.readBytes, h a (by omega) (by omega), hrest]

/-- A run inside a readable run is readable, and is that part of it. -/
theorem readBytes_part {m : Memory} {a n k l : Nat} {bs : List Byte} (h : Memory.readBytes m a n = some bs)
    (hkl : k + l ≤ n) : Memory.readBytes m (a + k) l = some ((bs.drop k).take l) := by
  obtain ⟨hl, hr⟩ := readBytes_eq_some.1 h
  refine readBytes_eq_some.2 ⟨by simp; omega, fun i hi => ?_⟩
  simp only [List.length_take, List.length_drop] at hi
  have := hr (k + i) (by omega)
  simpa [Nat.add_assoc] using this

/-- Two adjacent runs make one. -/
theorem readBytes_append {m : Memory} {a n k : Nat} {bs cs : List Byte} (h1 : Memory.readBytes m a n = some bs)
    (h2 : Memory.readBytes m (a + n) k = some cs) : Memory.readBytes m a (n + k) = some (bs ++ cs) := by
  obtain ⟨hl1, hr1⟩ := readBytes_eq_some.1 h1
  obtain ⟨hl2, hr2⟩ := readBytes_eq_some.1 h2
  refine readBytes_eq_some.2 ⟨by simp [hl1, hl2], fun i hi => ?_⟩
  by_cases h : i < bs.length
  · simpa [List.getElem_append, h] using hr1 i h
  · have := hr2 (i - bs.length) (by simp at hi; omega)
    rw [show a + n + (i - bs.length) = a + i by omega] at this
    simpa [List.getElem_append, h] using this

end Sys2Proof.Machine
end

