-- ==== Sys2Proof/Laws/Ops.lean ====
section
/-! SUPPORT. What each shared operation can do, said once. -/

namespace Sys2Proof.Machine

/-- A command is ignored, or takes its fault, or has its effect. -/
theorem runCommand_next {check : Option Cause} {effect : State → Result} {s t : State}
    (h : runCommand check effect s = .next t) :
    (s.flt = true ∧ t = s) ∨ (s.flt = false ∧ ∃ c, check = some c ∧ t = raiseFault c s) ∨
      (s.flt = false ∧ check = none ∧ effect s = .next t) := by
  unfold runCommand at h
  split at h
  · next hf => cases h; exact .inl ⟨hf, rfl⟩
  · next hf =>
    have hf : s.flt = false := by simpa using hf
    split at h
    · cases h; exact .inr (.inl ⟨hf, _, rfl, rfl⟩)
    · exact .inr (.inr ⟨hf, rfl, h⟩)

/-- A stopped engine ignores the command. -/
theorem runCommand_stopped {check : Option Cause} {effect : State → Result} {s : State} (h : s.flt = true) :
    runCommand check effect s = .next s := by simp [runCommand, h]

/-- A failing check takes its fault. -/
theorem runCommand_check {c : Cause} {effect : State → Result} {s : State} (h : s.flt = false) :
    runCommand (some c) effect s = .next (raiseFault c s) := by simp [runCommand, h]

/-- A command whose checks pass has its effect. -/
theorem runCommand_pass {effect : State → Result} {s : State} (h : s.flt = false) :
    runCommand none effect s = effect s := by simp [runCommand, h]

/-- A command stops only where its checks pass and its effect stops. -/
theorem runCommand_fault {check : Option Cause} {effect : State → Result} {s : State} {f : Fault}
    (h : runCommand check effect s = .fault f) : s.flt = false ∧ check = none ∧ effect s = .fault f := by
  unfold runCommand at h
  split at h
  · cases h
  · next hf =>
    split at h
    · cases h
    · exact ⟨by simpa using hf, rfl, h⟩

/-- A command is refused only where its effect is. -/
theorem runCommand_refused {check : Option Cause} {effect : State → Result} {s : State} {r : Refusal}
    (h : runCommand check effect s = .refused r) : effect s = .refused r := by
  unfold runCommand at h
  split at h
  · cases h
  · split at h
    · cases h
    · exact h

/-- A message read answers bytes exactly where the run lies in the message and is placed. -/
theorem memRead_ok {s : State} {off : Word} {n : Nat} {bs : List Byte} :
    memRead s off n = .ok bs ↔
      off.toNat + n ≤ s.mlen.toNat ∧ Memory.readBytes s.msg off.toNat n = some bs := by
  unfold memRead
  split
  · next h => split <;> simp_all
  · next h => simp [h]

/-- A command that reads the message goes on with the bytes read. -/
theorem withMessageBytes_next {n : Nat} {k : List Byte → State → State} {s t : State}
    (h : withMessageBytes n k s = .next t) : ∃ bs, memRead s s.length n = .ok bs ∧ t = k bs s := by
  unfold withMessageBytes at h
  split at h
  · next bs hb => cases h; exact ⟨bs, hb, rfl⟩
  · cases h

/-- A command that reads the message is never refused. -/
theorem withMessageBytes_not_refused {n : Nat} {k : List Byte → State → State} {s : State} {r : Refusal} :
    withMessageBytes n k s ≠ .refused r := by
  unfold withMessageBytes; split <;> simp

/-- A command stops only at a message byte it cannot read. -/
theorem withMessageBytes_fault {n : Nat} {k : List Byte → State → State} {s : State} {f : Fault}
    (h : withMessageBytes n k s = .fault f) : memRead s s.length n = .error f := by
  unfold withMessageBytes at h
  split at h
  · cases h
  · next hf => cases h; exact hf

/-- INIT's checks pass exactly where no computation is open and the length is acceptable. -/
theorem initCheck_none {s : State} :
    initCheck s = none ↔ s.ph.isOpen = false ∧ s.msgLen.toNat ≤ s.cfg.nMax.toNat := by
  unfold initCheck; split <;> simp_all

/-- BLOCK's checks pass exactly in ABSORB with 16 bytes remaining. -/
theorem blockCheck_none {s : State} :
    blockCheck s = none ↔ s.ph = .absorb ∧ s.length.toNat + 16 ≤ s.mlen.toNat := by
  unfold blockCheck State.remaining
  split
  · simp_all
  · split <;> simp_all <;> omega

/-- TAIL's checks pass exactly in ABSORB with the 1 to 15 bytes it names remaining. -/
theorem tailCheck_none {n : Nat} {s : State} :
    tailCheck n s = none ↔ s.ph = .absorb ∧ 1 ≤ n ∧ n ≤ 15 ∧ s.length.toNat + n = s.mlen.toNat := by
  unfold tailCheck State.remaining Config.tailMin Config.tailMax
  split
  · simp_all
  · split
    · next h => simp_all; omega
    · next h => split <;> simp_all <;> omega

/-- FINAL's checks pass exactly in an open computation with no byte remaining. -/
theorem finalCheck_none {s : State} : finalCheck s = none ↔ s.ph.isOpen = true ∧ s.length = s.mlen := by
  unfold finalCheck State.remaining
  split
  · simp_all
  · split
    · next h => simp_all; intro he; apply h; simp [he]
    · next h => simp_all; exact BitVec.eq_of_toNat_eq (by omega)

/-- Which fault INIT's checks raise, and where. -/
theorem initCheck_some {s : State} {c : Cause} (h : initCheck s = some c) :
    (c = .sequence ∧ s.ph.isOpen = true) ∨
      (c = .framing ∧ s.ph.isOpen = false ∧ s.cfg.nMax.toNat < s.msgLen.toNat) := by
  unfold initCheck at h
  split at h
  · simp_all
  · split at h <;> simp_all

/-- Which fault BLOCK's checks raise, and where. -/
theorem blockCheck_some {s : State} {c : Cause} (h : blockCheck s = some c) :
    (c = .sequence ∧ s.ph ≠ .absorb) ∨
      (c = .framing ∧ s.ph = .absorb ∧ s.mlen.toNat < s.length.toNat + 16) := by
  unfold blockCheck at h
  split at h
  · simp_all
  · split at h
    · next hp hr =>
      simp only [State.remaining, Config.blockBytes] at hr
      exact .inr ⟨by simpa using h.symm, by simp_all, by omega⟩
    · simp_all

/-- Which fault TAIL's checks raise, and where. -/
theorem tailCheck_some {n : Nat} {s : State} {c : Cause} (h : tailCheck n s = some c) :
    (c = .sequence ∧ s.ph ≠ .absorb) ∨ (c = .tailLength ∧ s.ph = .absorb ∧ (n = 0 ∨ 15 < n)) ∨
      (c = .framing ∧ s.ph = .absorb ∧ 1 ≤ n ∧ n ≤ 15 ∧ s.length.toNat + n ≠ s.mlen.toNat) := by
  unfold tailCheck at h
  split at h
  · simp_all
  · split at h
    · next hp hn =>
      simp only [Config.tailMin, Config.tailMax] at hn
      exact .inr (.inl ⟨by simpa using h.symm, by simp_all, by omega⟩)
    · split at h
      · next hp hn hr =>
        simp only [State.remaining, Config.tailMin, Config.tailMax] at hn hr
        exact .inr (.inr ⟨by simpa using h.symm, by simp_all, by omega, by omega, by omega⟩)
      · simp_all

/-- Which fault FINAL's checks raise, and where. -/
theorem finalCheck_some {s : State} {c : Cause} (h : finalCheck s = some c) :
    (c = .sequence ∧ s.ph.isOpen = false) ∨
      (c = .framing ∧ s.ph.isOpen = true ∧ s.length.toNat ≠ s.mlen.toNat) := by
  unfold finalCheck at h
  split at h
  · simp_all
  · split at h
    · next hp hr =>
      simp only [State.remaining] at hr
      exact .inr ⟨by simpa using h.symm, by simp_all, by omega⟩
    · simp_all

end Sys2Proof.Machine
end

