-- ==== Sys2Proof/Laws/State.lean ====
section
/-! SUPPORT. One lemma per field per update of the state, each true by unfolding, so that no proof unfolds a record. The state is
taken apart first, so that simp carries them as rewriting steps: a step checked by unfolding would compare the computed lanes with
the old ones by evaluation, which is very slow. -/

namespace Sys2Proof.Machine

@[simp] theorem setLanes_h1 (p : Word × Word) (s : State) : (setLanes p s).h1 = p.1 := by cases s; rfl
@[simp] theorem setLanes_h2 (p : Word × Word) (s : State) : (setLanes p s).h2 = p.2 := by cases s; rfl
@[simp] theorem setLanes_length (p : Word × Word) (s : State) : (setLanes p s).length = s.length := by cases s; rfl
@[simp] theorem setLanes_seed (p : Word × Word) (s : State) : (setLanes p s).seed = s.seed := by cases s; rfl
@[simp] theorem setLanes_mlen (p : Word × Word) (s : State) : (setLanes p s).mlen = s.mlen := by cases s; rfl
@[simp] theorem setLanes_ph (p : Word × Word) (s : State) : (setLanes p s).ph = s.ph := by cases s; rfl
@[simp] theorem setLanes_flt (p : Word × Word) (s : State) : (setLanes p s).flt = s.flt := by cases s; rfl
@[simp] theorem setLanes_fcause (p : Word × Word) (s : State) : (setLanes p s).fcause = s.fcause := by cases s; rfl
@[simp] theorem setLanes_digest (p : Word × Word) (s : State) : (setLanes p s).digest = s.digest := by cases s; rfl
@[simp] theorem setLanes_rst (p : Word × Word) (s : State) : (setLanes p s).rst = s.rst := by cases s; rfl
@[simp] theorem setLanes_start (p : Word × Word) (s : State) : (setLanes p s).start = s.start := by cases s; rfl
@[simp] theorem setLanes_seedPresent (p : Word × Word) (s : State) :
    (setLanes p s).seedPresent = s.seedPresent := by cases s; rfl
@[simp] theorem setLanes_seedIn (p : Word × Word) (s : State) : (setLanes p s).seedIn = s.seedIn := by cases s; rfl
@[simp] theorem setLanes_msgLen (p : Word × Word) (s : State) : (setLanes p s).msgLen = s.msgLen := by cases s; rfl
@[simp] theorem setLanes_msg (p : Word × Word) (s : State) : (setLanes p s).msg = s.msg := by cases s; rfl
@[simp] theorem setLanes_drive (p : Word × Word) (s : State) : (setLanes p s).drive = s.drive := by cases s; rfl
@[simp] theorem setLanes_cfg (p : Word × Word) (s : State) : (setLanes p s).cfg = s.cfg := by cases s; rfl

@[simp] theorem setLength_h1 (n : Word) (s : State) : (setLength n s).h1 = s.h1 := by cases s; rfl
@[simp] theorem setLength_h2 (n : Word) (s : State) : (setLength n s).h2 = s.h2 := by cases s; rfl
@[simp] theorem setLength_length (n : Word) (s : State) : (setLength n s).length = n := by cases s; rfl
@[simp] theorem setLength_seed (n : Word) (s : State) : (setLength n s).seed = s.seed := by cases s; rfl
@[simp] theorem setLength_mlen (n : Word) (s : State) : (setLength n s).mlen = s.mlen := by cases s; rfl
@[simp] theorem setLength_ph (n : Word) (s : State) : (setLength n s).ph = s.ph := by cases s; rfl
@[simp] theorem setLength_flt (n : Word) (s : State) : (setLength n s).flt = s.flt := by cases s; rfl
@[simp] theorem setLength_fcause (n : Word) (s : State) : (setLength n s).fcause = s.fcause := by cases s; rfl
@[simp] theorem setLength_digest (n : Word) (s : State) : (setLength n s).digest = s.digest := by cases s; rfl
@[simp] theorem setLength_rst (n : Word) (s : State) : (setLength n s).rst = s.rst := by cases s; rfl
@[simp] theorem setLength_start (n : Word) (s : State) : (setLength n s).start = s.start := by cases s; rfl
@[simp] theorem setLength_seedPresent (n : Word) (s : State) :
    (setLength n s).seedPresent = s.seedPresent := by cases s; rfl
@[simp] theorem setLength_seedIn (n : Word) (s : State) : (setLength n s).seedIn = s.seedIn := by cases s; rfl
@[simp] theorem setLength_msgLen (n : Word) (s : State) : (setLength n s).msgLen = s.msgLen := by cases s; rfl
@[simp] theorem setLength_msg (n : Word) (s : State) : (setLength n s).msg = s.msg := by cases s; rfl
@[simp] theorem setLength_drive (n : Word) (s : State) : (setLength n s).drive = s.drive := by cases s; rfl
@[simp] theorem setLength_cfg (n : Word) (s : State) : (setLength n s).cfg = s.cfg := by cases s; rfl

@[simp] theorem setPhase_h1 (p : Phase) (s : State) : (setPhase p s).h1 = s.h1 := by cases s; rfl
@[simp] theorem setPhase_h2 (p : Phase) (s : State) : (setPhase p s).h2 = s.h2 := by cases s; rfl
@[simp] theorem setPhase_length (p : Phase) (s : State) : (setPhase p s).length = s.length := by cases s; rfl
@[simp] theorem setPhase_seed (p : Phase) (s : State) : (setPhase p s).seed = s.seed := by cases s; rfl
@[simp] theorem setPhase_mlen (p : Phase) (s : State) : (setPhase p s).mlen = s.mlen := by cases s; rfl
@[simp] theorem setPhase_ph (p : Phase) (s : State) : (setPhase p s).ph = p := by cases s; rfl
@[simp] theorem setPhase_flt (p : Phase) (s : State) : (setPhase p s).flt = s.flt := by cases s; rfl
@[simp] theorem setPhase_fcause (p : Phase) (s : State) : (setPhase p s).fcause = s.fcause := by cases s; rfl
@[simp] theorem setPhase_digest (p : Phase) (s : State) : (setPhase p s).digest = s.digest := by cases s; rfl
@[simp] theorem setPhase_rst (p : Phase) (s : State) : (setPhase p s).rst = s.rst := by cases s; rfl
@[simp] theorem setPhase_start (p : Phase) (s : State) : (setPhase p s).start = s.start := by cases s; rfl
@[simp] theorem setPhase_seedPresent (p : Phase) (s : State) :
    (setPhase p s).seedPresent = s.seedPresent := by cases s; rfl
@[simp] theorem setPhase_seedIn (p : Phase) (s : State) : (setPhase p s).seedIn = s.seedIn := by cases s; rfl
@[simp] theorem setPhase_msgLen (p : Phase) (s : State) : (setPhase p s).msgLen = s.msgLen := by cases s; rfl
@[simp] theorem setPhase_msg (p : Phase) (s : State) : (setPhase p s).msg = s.msg := by cases s; rfl
@[simp] theorem setPhase_drive (p : Phase) (s : State) : (setPhase p s).drive = s.drive := by cases s; rfl
@[simp] theorem setPhase_cfg (p : Phase) (s : State) : (setPhase p s).cfg = s.cfg := by cases s; rfl

@[simp] theorem latchInputs_h1 (v : SeedWord) (n : Word) (s : State) : (latchInputs v n s).h1 = s.h1 := by cases s; rfl
@[simp] theorem latchInputs_h2 (v : SeedWord) (n : Word) (s : State) : (latchInputs v n s).h2 = s.h2 := by cases s; rfl
@[simp] theorem latchInputs_length (v : SeedWord) (n : Word) (s : State) :
    (latchInputs v n s).length = s.length := by cases s; rfl
@[simp] theorem latchInputs_seed (v : SeedWord) (n : Word) (s : State) : (latchInputs v n s).seed = v := by cases s; rfl
@[simp] theorem latchInputs_mlen (v : SeedWord) (n : Word) (s : State) : (latchInputs v n s).mlen = n := by cases s; rfl
@[simp] theorem latchInputs_ph (v : SeedWord) (n : Word) (s : State) : (latchInputs v n s).ph = s.ph := by cases s; rfl
@[simp] theorem latchInputs_flt (v : SeedWord) (n : Word) (s : State) :
    (latchInputs v n s).flt = s.flt := by cases s; rfl
@[simp] theorem latchInputs_fcause (v : SeedWord) (n : Word) (s : State) :
    (latchInputs v n s).fcause = s.fcause := by cases s; rfl
@[simp] theorem latchInputs_digest (v : SeedWord) (n : Word) (s : State) :
    (latchInputs v n s).digest = s.digest := by cases s; rfl
@[simp] theorem latchInputs_rst (v : SeedWord) (n : Word) (s : State) :
    (latchInputs v n s).rst = s.rst := by cases s; rfl
@[simp] theorem latchInputs_start (v : SeedWord) (n : Word) (s : State) :
    (latchInputs v n s).start = s.start := by cases s; rfl
@[simp] theorem latchInputs_seedPresent (v : SeedWord) (n : Word) (s : State) :
    (latchInputs v n s).seedPresent = s.seedPresent := by cases s; rfl
@[simp] theorem latchInputs_seedIn (v : SeedWord) (n : Word) (s : State) :
    (latchInputs v n s).seedIn = s.seedIn := by cases s; rfl
@[simp] theorem latchInputs_msgLen (v : SeedWord) (n : Word) (s : State) :
    (latchInputs v n s).msgLen = s.msgLen := by cases s; rfl
@[simp] theorem latchInputs_msg (v : SeedWord) (n : Word) (s : State) :
    (latchInputs v n s).msg = s.msg := by cases s; rfl
@[simp] theorem latchInputs_drive (v : SeedWord) (n : Word) (s : State) :
    (latchInputs v n s).drive = s.drive := by cases s; rfl
@[simp] theorem latchInputs_cfg (v : SeedWord) (n : Word) (s : State) :
    (latchInputs v n s).cfg = s.cfg := by cases s; rfl

@[simp] theorem setDigest_h1 (m : Memory) (s : State) : (setDigest m s).h1 = s.h1 := by cases s; rfl
@[simp] theorem setDigest_h2 (m : Memory) (s : State) : (setDigest m s).h2 = s.h2 := by cases s; rfl
@[simp] theorem setDigest_length (m : Memory) (s : State) : (setDigest m s).length = s.length := by cases s; rfl
@[simp] theorem setDigest_seed (m : Memory) (s : State) : (setDigest m s).seed = s.seed := by cases s; rfl
@[simp] theorem setDigest_mlen (m : Memory) (s : State) : (setDigest m s).mlen = s.mlen := by cases s; rfl
@[simp] theorem setDigest_ph (m : Memory) (s : State) : (setDigest m s).ph = s.ph := by cases s; rfl
@[simp] theorem setDigest_flt (m : Memory) (s : State) : (setDigest m s).flt = s.flt := by cases s; rfl
@[simp] theorem setDigest_fcause (m : Memory) (s : State) : (setDigest m s).fcause = s.fcause := by cases s; rfl
@[simp] theorem setDigest_digest (m : Memory) (s : State) : (setDigest m s).digest = m := by cases s; rfl
@[simp] theorem setDigest_rst (m : Memory) (s : State) : (setDigest m s).rst = s.rst := by cases s; rfl
@[simp] theorem setDigest_start (m : Memory) (s : State) : (setDigest m s).start = s.start := by cases s; rfl
@[simp] theorem setDigest_seedPresent (m : Memory) (s : State) :
    (setDigest m s).seedPresent = s.seedPresent := by cases s; rfl
@[simp] theorem setDigest_seedIn (m : Memory) (s : State) : (setDigest m s).seedIn = s.seedIn := by cases s; rfl
@[simp] theorem setDigest_msgLen (m : Memory) (s : State) : (setDigest m s).msgLen = s.msgLen := by cases s; rfl
@[simp] theorem setDigest_msg (m : Memory) (s : State) : (setDigest m s).msg = s.msg := by cases s; rfl
@[simp] theorem setDigest_drive (m : Memory) (s : State) : (setDigest m s).drive = s.drive := by cases s; rfl
@[simp] theorem setDigest_cfg (m : Memory) (s : State) : (setDigest m s).cfg = s.cfg := by cases s; rfl

@[simp] theorem raiseFault_h1 (c : Cause) (s : State) : (raiseFault c s).h1 = s.h1 := by cases s; rfl
@[simp] theorem raiseFault_h2 (c : Cause) (s : State) : (raiseFault c s).h2 = s.h2 := by cases s; rfl
@[simp] theorem raiseFault_length (c : Cause) (s : State) : (raiseFault c s).length = s.length := by cases s; rfl
@[simp] theorem raiseFault_seed (c : Cause) (s : State) : (raiseFault c s).seed = s.seed := by cases s; rfl
@[simp] theorem raiseFault_mlen (c : Cause) (s : State) : (raiseFault c s).mlen = s.mlen := by cases s; rfl
@[simp] theorem raiseFault_ph (c : Cause) (s : State) : (raiseFault c s).ph = s.ph := by cases s; rfl
@[simp] theorem raiseFault_flt (c : Cause) (s : State) : (raiseFault c s).flt = true := by cases s; rfl
@[simp] theorem raiseFault_fcause (c : Cause) (s : State) : (raiseFault c s).fcause = c := by cases s; rfl
@[simp] theorem raiseFault_digest (c : Cause) (s : State) : (raiseFault c s).digest = s.digest := by cases s; rfl
@[simp] theorem raiseFault_rst (c : Cause) (s : State) : (raiseFault c s).rst = s.rst := by cases s; rfl
@[simp] theorem raiseFault_start (c : Cause) (s : State) : (raiseFault c s).start = s.start := by cases s; rfl
@[simp] theorem raiseFault_seedPresent (c : Cause) (s : State) :
    (raiseFault c s).seedPresent = s.seedPresent := by cases s; rfl
@[simp] theorem raiseFault_seedIn (c : Cause) (s : State) : (raiseFault c s).seedIn = s.seedIn := by cases s; rfl
@[simp] theorem raiseFault_msgLen (c : Cause) (s : State) : (raiseFault c s).msgLen = s.msgLen := by cases s; rfl
@[simp] theorem raiseFault_msg (c : Cause) (s : State) : (raiseFault c s).msg = s.msg := by cases s; rfl
@[simp] theorem raiseFault_drive (c : Cause) (s : State) : (raiseFault c s).drive = s.drive := by cases s; rfl
@[simp] theorem raiseFault_cfg (c : Cause) (s : State) : (raiseFault c s).cfg = s.cfg := by cases s; rfl

@[simp] theorem feed_h1 (ws : List Byte) (s : State) : (feed ws s).h1 = s.h1 := by cases s; rfl
@[simp] theorem feed_h2 (ws : List Byte) (s : State) : (feed ws s).h2 = s.h2 := by cases s; rfl
@[simp] theorem feed_length (ws : List Byte) (s : State) : (feed ws s).length = s.length := by cases s; rfl
@[simp] theorem feed_seed (ws : List Byte) (s : State) : (feed ws s).seed = s.seed := by cases s; rfl
@[simp] theorem feed_mlen (ws : List Byte) (s : State) : (feed ws s).mlen = s.mlen := by cases s; rfl
@[simp] theorem feed_ph (ws : List Byte) (s : State) : (feed ws s).ph = s.ph := by cases s; rfl
@[simp] theorem feed_flt (ws : List Byte) (s : State) : (feed ws s).flt = s.flt := by cases s; rfl
@[simp] theorem feed_fcause (ws : List Byte) (s : State) : (feed ws s).fcause = s.fcause := by cases s; rfl
@[simp] theorem feed_digest (ws : List Byte) (s : State) : (feed ws s).digest = s.digest := by cases s; rfl
@[simp] theorem feed_rst (ws : List Byte) (s : State) : (feed ws s).rst = s.rst := by cases s; rfl
@[simp] theorem feed_start (ws : List Byte) (s : State) : (feed ws s).start = s.start := by cases s; rfl
@[simp] theorem feed_seedPresent (ws : List Byte) (s : State) :
    (feed ws s).seedPresent = s.seedPresent := by cases s; rfl
@[simp] theorem feed_seedIn (ws : List Byte) (s : State) : (feed ws s).seedIn = s.seedIn := by cases s; rfl
@[simp] theorem feed_msgLen (ws : List Byte) (s : State) : (feed ws s).msgLen = s.msgLen := by cases s; rfl
@[simp] theorem feed_msg (ws : List Byte) (s : State) : (feed ws s).msg = s.msg := by cases s; rfl
@[simp] theorem feed_drive (ws : List Byte) (s : State) : (feed ws s).drive = .commandPort ws := by cases s; rfl
@[simp] theorem feed_cfg (ws : List Byte) (s : State) : (feed ws s).cfg = s.cfg := by cases s; rfl

@[simp] theorem resetEngine_h1 (s : State) : (resetEngine s).h1 = 0#64 := by cases s; rfl
@[simp] theorem resetEngine_h2 (s : State) : (resetEngine s).h2 = 0#64 := by cases s; rfl
@[simp] theorem resetEngine_length (s : State) : (resetEngine s).length = 0#64 := by cases s; rfl
@[simp] theorem resetEngine_seed (s : State) : (resetEngine s).seed = 0#32 := by cases s; rfl
@[simp] theorem resetEngine_mlen (s : State) : (resetEngine s).mlen = 0#64 := by cases s; rfl
@[simp] theorem resetEngine_ph (s : State) : (resetEngine s).ph = .idle := by cases s; rfl
@[simp] theorem resetEngine_flt (s : State) : (resetEngine s).flt = false := by cases s; rfl
@[simp] theorem resetEngine_fcause (s : State) : (resetEngine s).fcause = .noFault := by cases s; rfl
@[simp] theorem resetEngine_digest (s : State) : (resetEngine s).digest = [] := by cases s; rfl
@[simp] theorem resetEngine_rst (s : State) : (resetEngine s).rst = s.rst := by cases s; rfl
@[simp] theorem resetEngine_start (s : State) : (resetEngine s).start = s.start := by cases s; rfl
@[simp] theorem resetEngine_seedPresent (s : State) : (resetEngine s).seedPresent = s.seedPresent := by cases s; rfl
@[simp] theorem resetEngine_seedIn (s : State) : (resetEngine s).seedIn = s.seedIn := by cases s; rfl
@[simp] theorem resetEngine_msgLen (s : State) : (resetEngine s).msgLen = s.msgLen := by cases s; rfl
@[simp] theorem resetEngine_msg (s : State) : (resetEngine s).msg = s.msg := by cases s; rfl
@[simp] theorem resetEngine_drive (s : State) : (resetEngine s).drive = s.drive := by cases s; rfl
@[simp] theorem resetEngine_cfg (s : State) : (resetEngine s).cfg = s.cfg := by cases s; rfl

@[simp] theorem openComputation_h1 (s : State) :
    (openComputation s).h1 = zext64 (seedOperand s.seedPresent s.seedIn) := by
  rw [openComputation]; simp only [setPhase_h1, setLength_h1, setLanes_h1, seedLanes, Config.h2Init]
@[simp] theorem openComputation_h2 (s : State) :
    (openComputation s).h2 = 0#64 := by
  rw [openComputation]; simp only [setPhase_h2, setLength_h2, setLanes_h2, seedLanes, Config.h2Init]
@[simp] theorem openComputation_length (s : State) :
    (openComputation s).length = 0#64 := by
  rw [openComputation]; simp only [setPhase_length, setLength_length]
@[simp] theorem openComputation_seed (s : State) :
    (openComputation s).seed = seedOperand s.seedPresent s.seedIn := by
  rw [openComputation]; simp only [setPhase_seed, setLength_seed, setLanes_seed, latchInputs_seed]
@[simp] theorem openComputation_mlen (s : State) :
    (openComputation s).mlen = s.msgLen := by
  rw [openComputation]; simp only [setPhase_mlen, setLength_mlen, setLanes_mlen, latchInputs_mlen]
@[simp] theorem openComputation_ph (s : State) :
    (openComputation s).ph = .absorb := by
  rw [openComputation]; simp only [setPhase_ph]
@[simp] theorem openComputation_flt (s : State) :
    (openComputation s).flt = s.flt := by
  rw [openComputation]; simp only [setPhase_flt, setLength_flt, setLanes_flt, latchInputs_flt]
@[simp] theorem openComputation_fcause (s : State) :
    (openComputation s).fcause = s.fcause := by
  rw [openComputation]; simp only [setPhase_fcause, setLength_fcause, setLanes_fcause, latchInputs_fcause]
@[simp] theorem openComputation_digest (s : State) :
    (openComputation s).digest = s.digest := by
  rw [openComputation]; simp only [setPhase_digest, setLength_digest, setLanes_digest, latchInputs_digest]
@[simp] theorem openComputation_rst (s : State) :
    (openComputation s).rst = s.rst := by
  rw [openComputation]; simp only [setPhase_rst, setLength_rst, setLanes_rst, latchInputs_rst]
@[simp] theorem openComputation_start (s : State) :
    (openComputation s).start = s.start := by
  rw [openComputation]; simp only [setPhase_start, setLength_start, setLanes_start, latchInputs_start]
@[simp] theorem openComputation_seedPresent (s : State) :
    (openComputation s).seedPresent = s.seedPresent := by
  rw [openComputation]; simp only [setPhase_seedPresent, setLength_seedPresent, setLanes_seedPresent, latchInputs_seedPresent]
@[simp] theorem openComputation_seedIn (s : State) :
    (openComputation s).seedIn = s.seedIn := by
  rw [openComputation]; simp only [setPhase_seedIn, setLength_seedIn, setLanes_seedIn, latchInputs_seedIn]
@[simp] theorem openComputation_msgLen (s : State) :
    (openComputation s).msgLen = s.msgLen := by
  rw [openComputation]; simp only [setPhase_msgLen, setLength_msgLen, setLanes_msgLen, latchInputs_msgLen]
@[simp] theorem openComputation_msg (s : State) :
    (openComputation s).msg = s.msg := by
  rw [openComputation]; simp only [setPhase_msg, setLength_msg, setLanes_msg, latchInputs_msg]
@[simp] theorem openComputation_drive (s : State) :
    (openComputation s).drive = s.drive := by
  rw [openComputation]; simp only [setPhase_drive, setLength_drive, setLanes_drive, latchInputs_drive]
@[simp] theorem openComputation_cfg (s : State) :
    (openComputation s).cfg = s.cfg := by
  rw [openComputation]; simp only [setPhase_cfg, setLength_cfg, setLanes_cfg, latchInputs_cfg]

@[simp] theorem absorbBlock_h1 (b : List Byte) (s : State) :
    (absorbBlock b s).h1 = (blockMix (s.h1, s.h2) (blockWords b)).1 := by
  rw [absorbBlock]; simp only [setLanes_h1]
@[simp] theorem absorbBlock_h2 (b : List Byte) (s : State) :
    (absorbBlock b s).h2 = (blockMix (s.h1, s.h2) (blockWords b)).2 := by
  rw [absorbBlock]; simp only [setLanes_h2]
@[simp] theorem absorbBlock_length (b : List Byte) (s : State) :
    (absorbBlock b s).length = s.length + 16#64 := by
  rw [absorbBlock]; simp only [setLanes_length, setLength_length]
@[simp] theorem absorbBlock_seed (b : List Byte) (s : State) :
    (absorbBlock b s).seed = s.seed := by
  rw [absorbBlock]; simp only [setLanes_seed, setLength_seed]
@[simp] theorem absorbBlock_mlen (b : List Byte) (s : State) :
    (absorbBlock b s).mlen = s.mlen := by
  rw [absorbBlock]; simp only [setLanes_mlen, setLength_mlen]
@[simp] theorem absorbBlock_ph (b : List Byte) (s : State) :
    (absorbBlock b s).ph = s.ph := by
  rw [absorbBlock]; simp only [setLanes_ph, setLength_ph]
@[simp] theorem absorbBlock_flt (b : List Byte) (s : State) :
    (absorbBlock b s).flt = s.flt := by
  rw [absorbBlock]; simp only [setLanes_flt, setLength_flt]
@[simp] theorem absorbBlock_fcause (b : List Byte) (s : State) :
    (absorbBlock b s).fcause = s.fcause := by
  rw [absorbBlock]; simp only [setLanes_fcause, setLength_fcause]
@[simp] theorem absorbBlock_digest (b : List Byte) (s : State) :
    (absorbBlock b s).digest = s.digest := by
  rw [absorbBlock]; simp only [setLanes_digest, setLength_digest]
@[simp] theorem absorbBlock_rst (b : List Byte) (s : State) :
    (absorbBlock b s).rst = s.rst := by
  rw [absorbBlock]; simp only [setLanes_rst, setLength_rst]
@[simp] theorem absorbBlock_start (b : List Byte) (s : State) :
    (absorbBlock b s).start = s.start := by
  rw [absorbBlock]; simp only [setLanes_start, setLength_start]
@[simp] theorem absorbBlock_seedPresent (b : List Byte) (s : State) :
    (absorbBlock b s).seedPresent = s.seedPresent := by
  rw [absorbBlock]; simp only [setLanes_seedPresent, setLength_seedPresent]
@[simp] theorem absorbBlock_seedIn (b : List Byte) (s : State) :
    (absorbBlock b s).seedIn = s.seedIn := by
  rw [absorbBlock]; simp only [setLanes_seedIn, setLength_seedIn]
@[simp] theorem absorbBlock_msgLen (b : List Byte) (s : State) :
    (absorbBlock b s).msgLen = s.msgLen := by
  rw [absorbBlock]; simp only [setLanes_msgLen, setLength_msgLen]
@[simp] theorem absorbBlock_msg (b : List Byte) (s : State) :
    (absorbBlock b s).msg = s.msg := by
  rw [absorbBlock]; simp only [setLanes_msg, setLength_msg]
@[simp] theorem absorbBlock_drive (b : List Byte) (s : State) :
    (absorbBlock b s).drive = s.drive := by
  rw [absorbBlock]; simp only [setLanes_drive, setLength_drive]
@[simp] theorem absorbBlock_cfg (b : List Byte) (s : State) :
    (absorbBlock b s).cfg = s.cfg := by
  rw [absorbBlock]; simp only [setLanes_cfg, setLength_cfg]

@[simp] theorem absorbTail_h1 (t : List Byte) (s : State) :
    (absorbTail t s).h1 = (tailMix (s.h1, s.h2) (tailPack t)).1 := by
  rw [absorbTail]; simp only [setPhase_h1, setLanes_h1]
@[simp] theorem absorbTail_h2 (t : List Byte) (s : State) :
    (absorbTail t s).h2 = (tailMix (s.h1, s.h2) (tailPack t)).2 := by
  rw [absorbTail]; simp only [setPhase_h2, setLanes_h2]
@[simp] theorem absorbTail_length (t : List Byte) (s : State) :
    (absorbTail t s).length = s.length + BitVec.ofNat 64 t.length := by
  rw [absorbTail]; simp only [setPhase_length, setLanes_length, setLength_length]
@[simp] theorem absorbTail_seed (t : List Byte) (s : State) :
    (absorbTail t s).seed = s.seed := by
  rw [absorbTail]; simp only [setPhase_seed, setLanes_seed, setLength_seed]
@[simp] theorem absorbTail_mlen (t : List Byte) (s : State) :
    (absorbTail t s).mlen = s.mlen := by
  rw [absorbTail]; simp only [setPhase_mlen, setLanes_mlen, setLength_mlen]
@[simp] theorem absorbTail_ph (t : List Byte) (s : State) :
    (absorbTail t s).ph = .tailed := by
  rw [absorbTail]; simp only [setPhase_ph]
@[simp] theorem absorbTail_flt (t : List Byte) (s : State) :
    (absorbTail t s).flt = s.flt := by
  rw [absorbTail]; simp only [setPhase_flt, setLanes_flt, setLength_flt]
@[simp] theorem absorbTail_fcause (t : List Byte) (s : State) :
    (absorbTail t s).fcause = s.fcause := by
  rw [absorbTail]; simp only [setPhase_fcause, setLanes_fcause, setLength_fcause]
@[simp] theorem absorbTail_digest (t : List Byte) (s : State) :
    (absorbTail t s).digest = s.digest := by
  rw [absorbTail]; simp only [setPhase_digest, setLanes_digest, setLength_digest]
@[simp] theorem absorbTail_rst (t : List Byte) (s : State) :
    (absorbTail t s).rst = s.rst := by
  rw [absorbTail]; simp only [setPhase_rst, setLanes_rst, setLength_rst]
@[simp] theorem absorbTail_start (t : List Byte) (s : State) :
    (absorbTail t s).start = s.start := by
  rw [absorbTail]; simp only [setPhase_start, setLanes_start, setLength_start]
@[simp] theorem absorbTail_seedPresent (t : List Byte) (s : State) :
    (absorbTail t s).seedPresent = s.seedPresent := by
  rw [absorbTail]; simp only [setPhase_seedPresent, setLanes_seedPresent, setLength_seedPresent]
@[simp] theorem absorbTail_seedIn (t : List Byte) (s : State) :
    (absorbTail t s).seedIn = s.seedIn := by
  rw [absorbTail]; simp only [setPhase_seedIn, setLanes_seedIn, setLength_seedIn]
@[simp] theorem absorbTail_msgLen (t : List Byte) (s : State) :
    (absorbTail t s).msgLen = s.msgLen := by
  rw [absorbTail]; simp only [setPhase_msgLen, setLanes_msgLen, setLength_msgLen]
@[simp] theorem absorbTail_msg (t : List Byte) (s : State) :
    (absorbTail t s).msg = s.msg := by
  rw [absorbTail]; simp only [setPhase_msg, setLanes_msg, setLength_msg]
@[simp] theorem absorbTail_drive (t : List Byte) (s : State) :
    (absorbTail t s).drive = s.drive := by
  rw [absorbTail]; simp only [setPhase_drive, setLanes_drive, setLength_drive]
@[simp] theorem absorbTail_cfg (t : List Byte) (s : State) :
    (absorbTail t s).cfg = s.cfg := by
  rw [absorbTail]; simp only [setPhase_cfg, setLanes_cfg, setLength_cfg]

@[simp] theorem finishComputation_h1 (s : State) :
    (finishComputation s).h1 = (finalMix (s.h1, s.h2) s.length).1 := by
  rw [finishComputation]; simp only [setPhase_h1, setDigest_h1, setLanes_h1]
@[simp] theorem finishComputation_h2 (s : State) :
    (finishComputation s).h2 = (finalMix (s.h1, s.h2) s.length).2 := by
  rw [finishComputation]; simp only [setPhase_h2, setDigest_h2, setLanes_h2]
@[simp] theorem finishComputation_length (s : State) :
    (finishComputation s).length = s.length := by
  rw [finishComputation]; simp only [setPhase_length, setDigest_length, setLanes_length]
@[simp] theorem finishComputation_seed (s : State) :
    (finishComputation s).seed = s.seed := by
  rw [finishComputation]; simp only [setPhase_seed, setDigest_seed, setLanes_seed]
@[simp] theorem finishComputation_mlen (s : State) :
    (finishComputation s).mlen = s.mlen := by
  rw [finishComputation]; simp only [setPhase_mlen, setDigest_mlen, setLanes_mlen]
@[simp] theorem finishComputation_ph (s : State) :
    (finishComputation s).ph = .done := by
  rw [finishComputation]; simp only [setPhase_ph]
@[simp] theorem finishComputation_flt (s : State) :
    (finishComputation s).flt = s.flt := by
  rw [finishComputation]; simp only [setPhase_flt, setDigest_flt, setLanes_flt]
@[simp] theorem finishComputation_fcause (s : State) :
    (finishComputation s).fcause = s.fcause := by
  rw [finishComputation]; simp only [setPhase_fcause, setDigest_fcause, setLanes_fcause]
@[simp] theorem finishComputation_digest (s : State) :
    (finishComputation s).digest = memWriteDigest s (digestOf (finalMix (s.h1, s.h2) s.length)) := by
  rw [finishComputation]; simp only [setPhase_digest, setDigest_digest]
@[simp] theorem finishComputation_rst (s : State) :
    (finishComputation s).rst = s.rst := by
  rw [finishComputation]; simp only [setPhase_rst, setDigest_rst, setLanes_rst]
@[simp] theorem finishComputation_start (s : State) :
    (finishComputation s).start = s.start := by
  rw [finishComputation]; simp only [setPhase_start, setDigest_start, setLanes_start]
@[simp] theorem finishComputation_seedPresent (s : State) :
    (finishComputation s).seedPresent = s.seedPresent := by
  rw [finishComputation]; simp only [setPhase_seedPresent, setDigest_seedPresent, setLanes_seedPresent]
@[simp] theorem finishComputation_seedIn (s : State) :
    (finishComputation s).seedIn = s.seedIn := by
  rw [finishComputation]; simp only [setPhase_seedIn, setDigest_seedIn, setLanes_seedIn]
@[simp] theorem finishComputation_msgLen (s : State) :
    (finishComputation s).msgLen = s.msgLen := by
  rw [finishComputation]; simp only [setPhase_msgLen, setDigest_msgLen, setLanes_msgLen]
@[simp] theorem finishComputation_msg (s : State) :
    (finishComputation s).msg = s.msg := by
  rw [finishComputation]; simp only [setPhase_msg, setDigest_msg, setLanes_msg]
@[simp] theorem finishComputation_drive (s : State) :
    (finishComputation s).drive = s.drive := by
  rw [finishComputation]; simp only [setPhase_drive, setDigest_drive, setLanes_drive]
@[simp] theorem finishComputation_cfg (s : State) :
    (finishComputation s).cfg = s.cfg := by
  rw [finishComputation]; simp only [setPhase_cfg, setDigest_cfg, setLanes_cfg]

end Sys2Proof.Machine
end

