-- ==== Sys2Proof/Laws/Commands.lean ====
section
/-! SUPPORT. What each command can do, said once: it is ignored, or takes its fault, or has its effect; and a change of
the state that a command does not look at passes through it. -/

namespace Sys2Proof.Machine

/-- Two states with equal fields are equal. -/
theorem State.ext_fields {s t : State} (h1 : s.h1 = t.h1) (h2 : s.h2 = t.h2) (length : s.length = t.length)
    (seed : s.seed = t.seed) (mlen : s.mlen = t.mlen) (ph : s.ph = t.ph) (flt : s.flt = t.flt)
    (fcause : s.fcause = t.fcause) (digest : s.digest = t.digest) (rst : s.rst = t.rst) (start : s.start = t.start)
    (seedPresent : s.seedPresent = t.seedPresent) (seedIn : s.seedIn = t.seedIn) (msgLen : s.msgLen = t.msgLen)
    (msg : s.msg = t.msg) (drive : s.drive = t.drive) (cfg : s.cfg = t.cfg) : s = t := by
  cases s; cases t; simp_all

/-- What INIT can do. -/
theorem execInit_next {s t : State} (h : exec .init s = .next t) :
    (s.flt = true ∧ t = s) ∨ (s.flt = false ∧ ∃ c, initCheck s = some c ∧ t = raiseFault c s) ∨
      (s.flt = false ∧ initCheck s = none ∧ t = openComputation s) := by
  have h' : runCommand (initCheck s) (fun s => .next (openComputation s)) s = .next t := h
  rcases runCommand_next h' with h | h | ⟨hf, hc, he⟩
  · exact .inl h
  · exact .inr (.inl h)
  · injection he with he; exact .inr (.inr ⟨hf, hc, he.symm⟩)

/-- What BLOCK can do. -/
theorem execBlock_next {s t : State} (h : exec .block s = .next t) :
    (s.flt = true ∧ t = s) ∨ (s.flt = false ∧ ∃ c, blockCheck s = some c ∧ t = raiseFault c s) ∨
      (s.flt = false ∧ blockCheck s = none ∧ ∃ b, memRead s s.length 16 = .ok b ∧ t = absorbBlock b s) := by
  have h' : runCommand (blockCheck s) (withMessageBytes 16 absorbBlock) s = .next t := h
  rcases runCommand_next h' with h | h | ⟨hf, hc, he⟩
  · exact .inl h
  · exact .inr (.inl h)
  · exact .inr (.inr ⟨hf, hc, withMessageBytes_next he⟩)

/-- What TAIL can do. -/
theorem execTail_next {n : Nat} {s t : State} (h : exec (.tail n) s = .next t) :
    (s.flt = true ∧ t = s) ∨ (s.flt = false ∧ ∃ c, tailCheck n s = some c ∧ t = raiseFault c s) ∨
      (s.flt = false ∧ tailCheck n s = none ∧ ∃ b, memRead s s.length n = .ok b ∧ t = absorbTail b s) := by
  have h' : runCommand (tailCheck n s) (withMessageBytes n absorbTail) s = .next t := h
  rcases runCommand_next h' with h | h | ⟨hf, hc, he⟩
  · exact .inl h
  · exact .inr (.inl h)
  · exact .inr (.inr ⟨hf, hc, withMessageBytes_next he⟩)

/-- What FINAL can do. -/
theorem execFinal_next {s t : State} (h : exec .final s = .next t) :
    (s.flt = true ∧ t = s) ∨ (s.flt = false ∧ ∃ c, finalCheck s = some c ∧ t = raiseFault c s) ∨
      (s.flt = false ∧ finalCheck s = none ∧ t = finishComputation s) := by
  have h' : runCommand (finalCheck s) (fun s => .next (finishComputation s)) s = .next t := h
  rcases runCommand_next h' with h | h | ⟨hf, hc, he⟩
  · exact .inl h
  · exact .inr (.inl h)
  · injection he with he; exact .inr (.inr ⟨hf, hc, he.symm⟩)

/-- A stopped engine ignores every command. -/
theorem exec_stopped {s : State} (i : Instr) (h : s.flt = true) : exec i s = .next s := by
  cases i with
  | init => exact runCommand_stopped (effect := fun s => .next (openComputation s)) h
  | block => exact runCommand_stopped (check := blockCheck s) h
  | tail n => exact runCommand_stopped (check := tailCheck n s) h
  | final => exact runCommand_stopped (effect := fun s => .next (finishComputation s)) h

/-- A change of the state that the check, the fault entry and the effect let through passes through the command. -/
theorem runCommand_mapNext {check check' : Option Cause} {effect effect' : State → Result} {s : State}
    (g : State → State) (hflt : (g s).flt = s.flt) (hraise : ∀ c, raiseFault c (g s) = g (raiseFault c s))
    (hcheck : check' = check) (heffect : effect' (g s) = mapNext g (effect s)) :
    runCommand check' effect' (g s) = mapNext g (runCommand check effect s) := by
  subst hcheck
  unfold runCommand
  rw [hflt]
  split
  · rfl
  · cases check' with
    | some c => simp only [mapNext, hraise]
    | none => exact heffect

/-- A change of the state that leaves the read alone and that the effect lets through passes through a reading command. -/
theorem withMessageBytes_mapNext {n : Nat} {k : List Byte → State → State} {s : State} (g : State → State)
    (hread : memRead (g s) (g s).length n = memRead s s.length n) (heffect : ∀ b, k b (g s) = g (k b s)) :
    withMessageBytes n k (g s) = mapNext g (withMessageBytes n k s) := by
  unfold withMessageBytes
  rw [hread]
  cases memRead s s.length n with
  | ok b => simp only [mapNext, heffect]
  | error f => rfl

/-- A change of the state that INIT does not look at passes through it. -/
theorem execInit_mapNext (g : State → State) {s : State} (hflt : (g s).flt = s.flt)
    (hraise : ∀ c, raiseFault c (g s) = g (raiseFault c s)) (hcheck : initCheck (g s) = initCheck s)
    (heffect : openComputation (g s) = g (openComputation s)) : exec .init (g s) = mapNext g (exec .init s) :=
  runCommand_mapNext (effect := fun s => .next (openComputation s)) (effect' := fun s => .next (openComputation s)) g
    hflt hraise hcheck (congrArg Host.Outcome.next heffect)

/-- A change of the state that BLOCK does not look at passes through it. -/
theorem execBlock_mapNext (g : State → State) {s : State} (hflt : (g s).flt = s.flt)
    (hraise : ∀ c, raiseFault c (g s) = g (raiseFault c s)) (hcheck : blockCheck (g s) = blockCheck s)
    (hread : memRead (g s) (g s).length 16 = memRead s s.length 16)
    (heffect : ∀ b, absorbBlock b (g s) = g (absorbBlock b s)) : exec .block (g s) = mapNext g (exec .block s) :=
  runCommand_mapNext g hflt hraise hcheck (withMessageBytes_mapNext g hread heffect)

/-- A change of the state that TAIL does not look at passes through it. -/
theorem execTail_mapNext (g : State → State) {n : Nat} {s : State} (hflt : (g s).flt = s.flt)
    (hraise : ∀ c, raiseFault c (g s) = g (raiseFault c s)) (hcheck : tailCheck n (g s) = tailCheck n s)
    (hread : memRead (g s) (g s).length n = memRead s s.length n)
    (heffect : ∀ b, absorbTail b (g s) = g (absorbTail b s)) : exec (.tail n) (g s) = mapNext g (exec (.tail n) s) :=
  runCommand_mapNext g hflt hraise hcheck (withMessageBytes_mapNext g hread heffect)

/-- A change of the state that FINAL does not look at passes through it. -/
theorem execFinal_mapNext (g : State → State) {s : State} (hflt : (g s).flt = s.flt)
    (hraise : ∀ c, raiseFault c (g s) = g (raiseFault c s)) (hcheck : finalCheck (g s) = finalCheck s)
    (heffect : finishComputation (g s) = g (finishComputation s)) : exec .final (g s) = mapNext g (exec .final s) :=
  runCommand_mapNext (effect := fun s => .next (finishComputation s))
    (effect' := fun s => .next (finishComputation s)) g hflt hraise hcheck (congrArg Host.Outcome.next heffect)

/-- In ABSORB without a fault, the sequencer's choice by the remaining bytes (`44_sequencer.md` R192). -/
theorem nextCommand_absorb {s : State} (hf : s.flt = false) (hp : s.ph = .absorb) :
    nextCommand s = if (16 : Int) ≤ s.remaining then .issue .block
      else if 1 ≤ s.remaining then tailChoice s.remaining else .issue .final := by
  simp only [nextCommand, hf, hp]; rfl

end Sys2Proof.Machine
end

