-- ==== Sys2Proof/Laws/Compute.lean ====
section
/-! SUPPORT. How COMPUTE's block loop grows with the message. -/

namespace Sys2Proof.Machine

/-- Bytes behind a block do not change it. -/
theorem messageBlock_append {bs cs : List Byte} {i : Nat} (h : 16 * i + 16 ≤ bs.length) :
    messageBlock (bs ++ cs) i = messageBlock bs i := by
  unfold messageBlock Config.blockBytes
  rw [List.drop_append_of_le_length (by omega), List.take_append_of_le_length (by simp; omega)]

/-- One block more is one block mix more. -/
theorem blocksLanes_succ (msg : List Byte) (seed : SeedWord) (q : Nat) :
    blocksLanes msg seed (q + 1) = blockMix (blocksLanes msg seed q) (blockWords (messageBlock msg q)) := by
  unfold blocksLanes
  rw [List.range_succ, List.foldl_append]
  simp only [List.foldl_cons, List.foldl_nil]

/-- The block loop looks at the first `q` blocks only. -/
theorem blocksLanes_congr {bs cs : List Byte} (seed : SeedWord) {q : Nat}
    (h : ∀ i < q, messageBlock bs i = messageBlock cs i) : blocksLanes bs seed q = blocksLanes cs seed q := by
  induction q with
  | zero => simp only [blocksLanes, List.range_zero, List.foldl_nil]
  | succ q ih => rw [blocksLanes_succ, blocksLanes_succ, ih fun i hi => h i (by omega), h q (by omega)]

end Sys2Proof.Machine
end

