-- ==== Sys2Proof/Laws/PerInstr.lean ====
section
/-! SUPPORT. Statements about every command as syntax, one lemma per constructor of `Instr`. -/

namespace Sys2Proof.Laws

/-- The command word of a command that has one decodes to that command (`30_encoding.md` R90). -/
def RoundTrip.Statement (i : Instr) : Prop := i.wellFormed = true → decode (encode i) = .command i

theorem RoundTrip.init : RoundTrip.Statement .init := fun _ => by decide

theorem RoundTrip.block : RoundTrip.Statement .block := fun _ => by decide

theorem RoundTrip.tail (n : Nat) : RoundTrip.Statement (.tail n) := fun h => by
  have all : ∀ m : Fin 16, decode (encode (.tail m.val)) = .command (.tail m.val) := by decide
  have hn : n ≤ 15 := by simpa [Instr.wellFormed] using h
  exact all ⟨n, by omega⟩

theorem RoundTrip.final : RoundTrip.Statement .final := fun _ => by decide

end Sys2Proof.Laws
end

