-- ==== Sys2Proof/Laws/Step.lean ====
section
/-! SUPPORT. What a step can do, said once; and where a command stops. -/

namespace Sys2Proof.Machine

/-- What a command word can do: run its command, be ignored, or take IllegalCommand. -/
theorem runWord_cases {w : Byte} {s : State} {r : Result} (h : runWord w s = r) :
    (∃ i, decode w = .command i ∧ exec i s = r) ∨ (s.flt = true ∧ r = .next s) ∨
      (s.flt = false ∧ decode w = .illegal ∧ r = .next (raiseFault .illegalCommand s)) := by
  unfold runWord at h
  split at h
  · next i hi => exact .inl ⟨i, hi, h⟩
  · next hi =>
    unfold runCommand at h
    split at h
    · next hf => exact .inr (.inl ⟨hf, h.symm⟩)
    · next hf => exact .inr (.inr ⟨by simpa using hf, hi, h.symm⟩)

/-- What a step can do: the reset, a refusal, one command, nothing but a word taken, or a fault outside a command. -/
theorem step_cases {s : State} {r : Result} (h : step s = r) :
    (s.rst = true ∧ r = .next (resetEngine s)) ∨ r = .refused .bothDrivingModes ∨
      (∃ d i, exec i { s with drive := d } = r) ∨ (∃ d, r = .next { s with drive := d }) ∨
      (∃ d c, c ≠ .noFault ∧ s.flt = false ∧ r = .next (raiseFault c { s with drive := d })) := by
  have same : ∀ d, s.drive = d → s = { s with drive := d } := by rintro d rfl; rfl
  unfold step at h
  split at h
  · next hr => exact .inl ⟨hr, h.symm⟩
  right
  unfold runningStep at h
  split at h
  · next hd =>
    unfold sequencerStep at h
    cases hN : nextCommand s with
    | nothing =>
      rw [hN] at h; subst h
      exact .inr (.inr (.inl ⟨_, congrArg Host.Outcome.next (same _ hd)⟩))
    | issue i =>
      rw [hN] at h
      exact .inr (.inl ⟨.sequencer, i, by rw [← same _ hd]; exact h⟩)
    | assertFails =>
      have hf : s.flt = false := by
        by_contra hf
        simp [nextCommand, Bool.of_not_eq_false hf] at hN
      rw [hN, performChoice, runCommand_check hf] at h
      subst h
      exact .inr (.inr (.inr ⟨.sequencer, .tailLength, by simp, hf, by rw [← same _ hd]⟩))
  · next ws hd =>
    cases ws with
    | nil => subst h; exact .inr (.inr (.inl ⟨_, congrArg Host.Outcome.next (same _ hd)⟩))
    | cons w ws =>
      simp only [commandPortStep] at h
      split at h
      · exact .inl h.symm
      · right
        rcases runWord_cases h with ⟨i, _, hi⟩ | ⟨_, hi⟩ | ⟨hf, _, hi⟩
        · exact .inl ⟨_, i, hi⟩
        · exact .inr (.inl ⟨_, hi⟩)
        · exact .inr (.inr ⟨_, .illegalCommand, by simp, hf, hi⟩)

/-- A message read inside the message stops only at a byte that is not placed. -/
theorem memRead_error {s : State} {off : Word} {n : Nat} {f : Fault} (h : memRead s off n = .error f)
    (hl : off.toNat + n ≤ s.mlen.toNat) :
    f = .messageByteAbsent ∧ Memory.readBytes s.msg off.toNat n = none := by
  unfold memRead at h
  rw [if_pos hl] at h
  split at h <;> simp_all

/-- The one stop of a command: a message byte it must read is not placed. -/
theorem exec_fault {i : Instr} {s : State} {f : Fault} (h : exec i s = .fault f) :
    f = .messageByteAbsent ∧ ∃ n, s.length.toNat + n ≤ s.mlen.toNat ∧
      Memory.readBytes s.msg s.length.toNat n = none := by
  cases i with
  | init => cases (runCommand_fault (check := initCheck s) (effect := fun s => .next (openComputation s)) h).2.2
  | final => cases (runCommand_fault (check := finalCheck s) (effect := fun s => .next (finishComputation s)) h).2.2
  | block =>
    obtain ⟨_, hc, he⟩ := runCommand_fault (check := blockCheck s) (effect := withMessageBytes 16 absorbBlock) h
    have := blockCheck_none.1 hc
    obtain ⟨a, b⟩ := memRead_error (withMessageBytes_fault he) (by omega)
    exact ⟨a, 16, by omega, b⟩
  | tail n =>
    obtain ⟨_, hc, he⟩ := runCommand_fault (check := tailCheck n s) (effect := withMessageBytes n absorbTail) h
    have := tailCheck_none.1 hc
    obtain ⟨a, b⟩ := memRead_error (withMessageBytes_fault he) (by omega)
    exact ⟨a, n, by omega, b⟩

/-- No command is refused. -/
theorem exec_not_refused {i : Instr} {s : State} {r : Refusal} : exec i s ≠ .refused r := by
  intro h
  cases i with
  | init =>
    have := runCommand_refused (check := initCheck s) (effect := fun s => .next (openComputation s)) h
    cases this
  | final =>
    have := runCommand_refused (check := finalCheck s) (effect := fun s => .next (finishComputation s)) h
    cases this
  | block =>
    exact withMessageBytes_not_refused
      (runCommand_refused (check := blockCheck s) (effect := withMessageBytes 16 absorbBlock) h)
  | tail n =>
    exact withMessageBytes_not_refused
      (runCommand_refused (check := tailCheck n s) (effect := withMessageBytes n absorbTail) h)

end Sys2Proof.Machine
end

