-- ==== Sys2Proof/Laws/Words.lean ====
section
/-! SUPPORT. The bits of a rotation, of a little-endian word and of its bytes. -/

namespace Sys2Proof.Machine

/-- Bit `i` of a left rotation by `r`. -/
theorem rotl64_getLsbD (a : Word) {r i : Nat} (hr : r < 64) (hi : i < 64) :
    (rotl64 a r).getLsbD i = if i < r then a.getLsbD (64 - r + i) else a.getLsbD (i - r) := by
  unfold rotl64
  simp only [BitVec.getLsbD_or, BitVec.getLsbD_shiftLeft, BitVec.getLsbD_ushiftRight, hi]
  by_cases h : i < r
  · simp [h]
  · simp only [decide_true, h, Bool.true_and, decide_false, Bool.not_false, if_false,
      Bool.or_eq_left_iff_imp]
    intro h'
    have := BitVec.lt_of_getLsbD h'
    omega

/-- A little-endian word of a first byte and the rest. -/
theorem le64_cons (b : Byte) (bs : List Byte) : le64 (b :: bs) = (le64 bs <<< 8) ||| zext64 b := by
  have e : (le64 bs <<< 8) &&& zext64 b = 0#64 := by
    apply BitVec.eq_of_getLsbD_eq
    intro i hi
    simp only [BitVec.getLsbD_and, BitVec.getLsbD_shiftLeft, zext64, BitVec.getLsbD_setWidth]
    by_cases h : i < 8
    · simp [h]
    · simp [BitVec.getLsbD_of_ge b i (by omega)]
  rw [← BitVec.add_eq_or_of_and_eq_zero _ _ e]
  simp only [le64]
  rw [BitVec.add_comm, BitVec.shiftLeft_eq_mul_twoPow]
  rfl

/-- Bit `i` of a little-endian word is bit `i mod 8` of byte `i / 8`. -/
theorem le64_getLsbD : ∀ (bs : List Byte) {i : Nat}, i < 64 →
    (le64 bs).getLsbD i = (bs.getD (i / 8) 0#8).getLsbD (i % 8)
  | [], i, _ => by simp [le64]
  | b :: bs, i, hi => by
    rw [le64_cons, BitVec.getLsbD_or, BitVec.getLsbD_shiftLeft]
    by_cases h : i < 8
    · rw [show i / 8 = 0 by omega, show i % 8 = i by omega]
      simp [hi, h, zext64]
    · rw [le64_getLsbD bs (i := i - 8) (by omega), show i / 8 = (i - 8) / 8 + 1 by omega,
        show i % 8 = (i - 8) % 8 by omega]
      simp [hi, h, zext64, BitVec.getLsbD_of_ge b i (by omega)]

/-- Byte `i` of a little-endian word. -/
theorem le64_byte (bs : List Byte) {i : Nat} (hi : i < 8) : (le64 bs).extractLsb' (8 * i) 8 = bs.getD i 0#8 := by
  apply BitVec.eq_of_getLsbD_eq
  intro j hj
  rw [BitVec.getLsbD_extractLsb', le64_getLsbD bs (by omega), show (8 * i + j) / 8 = i by omega,
    show (8 * i + j) % 8 = j by omega]
  simp [hj]

theorem le64bytes_length (w : Word) : (le64bytes w).length = 8 := by simp [le64bytes]

theorem digestOf_length (lanes : Word × Word) : (digestOf lanes).length = 16 := by
  simp [digestOf, le64bytes_length]

/-- Byte `i` of a word's bytes. -/
theorem le64bytes_getD (w : Word) {i : Nat} (hi : i < 8) : (le64bytes w).getD i 0#8 = w.extractLsb' (8 * i) 8 := by
  simp [le64bytes, hi]

/-- Bit `i` of a byte placed at byte position `j`. -/
theorem placeByte_getLsbD (t : Byte) {i j : Nat} (hi : i < 64) :
    (placeByte t j).getLsbD i = (decide (i / 8 = j) && t.getLsbD (i % 8)) := by
  unfold placeByte zext64
  rw [BitVec.getLsbD_shiftLeft, BitVec.getLsbD_setWidth]
  by_cases h : i / 8 = j
  · rw [show i - 8 * j = i % 8 by omega]
    simp only [hi, h, decide_true, Bool.true_and, show i % 8 < 64 by omega,
      show ¬ i < 8 * j by omega, decide_false, Bool.not_false]
  · by_cases h2 : i < 8 * j
    · simp [h, h2]
    · simp [h, h2, BitVec.getLsbD_of_ge t (i - 8 * j) (by omega)]

end Sys2Proof.Machine
end

