-- ==== Sys2Proof/Tests/Slice0.lean ====
section
/-! SUPPORT. The model's own tests: expected results are the spec's (file and vector named), and one witness theorem for each
statement that has hypotheses, at the boundary values of its clauses. -/

namespace Sys2Proof.Tests

open Sys2Proof.Machine

/-! ### Helpers -/

/-- The outcome is a next state with the property `p`. -/
def nextWith (r : Result) (p : State → Bool) : Bool :=
  match r with
  | .next t => p t
  | .fault _ => false
  | .refused _ => false

theorem nextWith_elim {r : Result} {p : State → Bool} (h : nextWith r p = true) : ∃ t, r = .next t ∧ p t = true := by
  cases r with
  | next t => exact ⟨t, rfl, h⟩
  | fault f => cases h
  | refused f => cases h

/-- The outcome is the stop `f`. -/
def faultWith (r : Result) (f : Fault) : Bool :=
  match r with
  | .next _ => false
  | .fault g => decide (g = f)
  | .refused _ => false

/-- The outcome is the refusal `q`. -/
def refusedWith (r : Result) (q : Refusal) : Bool :=
  match r with
  | .next _ => false
  | .fault _ => false
  | .refused p => decide (p = q)

/-- Phase and both lanes and `length`, for a result without a fault. -/
def lanesAre (p : Phase) (h1 h2 len : Word) (t : State) : Bool :=
  decide (t.ph = p ∧ t.h1 = h1 ∧ t.h2 = h2 ∧ t.length = len ∧ t.flt = false)

/-- Message `A(n)` of `95_test_vectors.md`: the bytes 1, 2, .., n. -/
def messageA (n : Nat) : List Byte := (List.range n).map fun i => BitVec.ofNat 8 (i + 1)

/-- "hello". -/
def hello : List Byte := [0x68#8, 0x65#8, 0x6C#8, 0x6C#8, 0x6F#8]

/-- The message handed over, `ph` IDLE, seed 0 on the ports, the sequencer driving. -/
def ready (bs : List Byte) : State :=
  { State.reset with msg := Memory.writeBytes [] 0 bs, msgLen := BitVec.ofNat 64 bs.length, seedPresent := true }

/-- In ABSORB with the message `bs`, nothing consumed, all other registers 0. -/
def absorbing (bs : List Byte) : State :=
  { ready bs with ph := .absorb, mlen := BitVec.ofNat 64 bs.length }

/-- In TAILED with `n` bytes consumed of a message of `n` bytes and the lanes 3 and 4. -/
def tailed (n : Nat) : State :=
  { State.reset with ph := .tailed, mlen := BitVec.ofNat 64 n, length := BitVec.ofNat 64 n, h1 := 3#64, h2 := 4#64 }

/-- In DONE with the lanes 1 and 2 and their digest. -/
def finished : State :=
  { State.reset with
    ph := .done, h1 := 1#64, h2 := 2#64, digest := Memory.writeBytes [] 0 (digestOf (1#64, 2#64)) }

/-- Stopped in ABSORB by a Framing fault. -/
def stopped : State := { absorbing hello with flt := true, fcause := .framing }

/-- A word list on the command port. -/
def onPort (ws : List Byte) (s : State) : State := { s with drive := .commandPort ws }

/-! ### Encoding -/

/-- The ill-formed terms of WellFormed: a tail length the field cannot hold (R87). -/
theorem test_wellFormed_refuses : (Instr.tail 16).wellFormed = false ∧ (Instr.tail 255).wellFormed = false := by decide

theorem test_wellFormed_admits :
    Instr.init.wellFormed = true ∧ Instr.block.wellFormed = true ∧ (Instr.tail 0).wellFormed = true ∧
      (Instr.tail 15).wellFormed = true ∧ Instr.final.wellFormed = true := by decide

/-- The opcode map of `30_encoding.md` R90, words written out bit by bit: op in bits 7:4, n in bits 3:0. -/
theorem test_decode_init : decode 0b00010000#8 = .command .init := by decide
theorem test_decode_block : decode 0b00100000#8 = .command .block := by decide
theorem test_decode_tail : decode 0b00111001#8 = .command (.tail 9) ∧ decode 0b00110000#8 = .command (.tail 0) := by
  decide
theorem test_decode_final : decode 0b01000000#8 = .command .final := by decide

/-- How many of the 16 words with the field `op` are illegal. -/
def illegalWithOp (op : Nat) : Nat :=
  ((List.range 16).filter fun n => decide (decode (BitVec.ofNat 8 (16 * op + n)) = .illegal)).length

/-- The illegal words by `op`, as the rows of R90 list them: 237 in all (log entry 15). -/
theorem test_decode_illegal_count :
    (List.range 16).map illegalWithOp = [16, 15, 15, 0, 15, 16, 16, 16, 16, 16, 16, 16, 16, 16, 16, 16] := by decide

/-- Neighbours of the legal words are illegal (R90). -/
theorem test_decode_neighbours :
    decode 0x11#8 = .illegal ∧ decode 0x2F#8 = .illegal ∧ decode 0x41#8 = .illegal ∧ decode 0x50#8 = .illegal ∧
      decode 0x0F#8 = .illegal := by decide

/-- The words of the schedule for N = 41 are `10 20 20 39 40` (`44_sequencer.md` R191). -/
theorem test_schedule_41 : encodeProgram (schedule 41) = [0x10#8, 0x20#8, 0x20#8, 0x39#8, 0x40#8] := by decide

/-- N = 0 gives `10 40`, N = 16 gives `10 20 40` (R191). -/
theorem test_schedule_no_tail :
    encodeProgram (schedule 0) = [0x10#8, 0x40#8] ∧ encodeProgram (schedule 16) = [0x10#8, 0x20#8, 0x40#8] := by decide

/-! ### The datapath: examples of `40_datapath.md` -/

theorem test_rotl64 : rotl64 0x0123456789ABCDEF#64 27 = 0x3C4D5E6F78091A2B#64 ∧
    rotl64 0x0123456789ABCDEF#64 33 = 0x13579BDE02468ACF#64 := by decide
theorem test_rotr64 : rotr64 0x0123456789ABCDEF#64 31 = 0x13579BDE02468ACF#64 := by decide
theorem test_shr64 : shr64 0xDEADBEEFCAFEBABE#64 33 = 0x6F56DF77#64 := by decide
theorem test_mixKey1 : mixKey1 0x0807060504030201#64 = 0x84912ea0966db987#64 := by decide
theorem test_mixKey2 : mixKey2 0x100f0e0d0c0b0a09#64 = 0xc33a7993a76e0d4b#64 := by decide
theorem test_mul5add : mul5add 0xdeadbeefcafebabe#64 Config.ra2 = 0x5964baaf2f43006b#64 := by decide
theorem test_avalanche : avalanche 0xdeadbeefcafebabe#64 = 0x7082995008f0c48c#64 := by decide

/-- TAILPACK of `42_tail.md` R151, tails of 7, 8 and 15 bytes `A0 A1 ..`. -/
theorem test_tailPack :
    tailPack [0xA0#8, 0xA1#8, 0xA2#8, 0xA3#8, 0xA4#8, 0xA5#8, 0xA6#8] = (0x00a6a5a4a3a2a1a0#64, 0#64) ∧
    tailPack [0xA0#8, 0xA1#8, 0xA2#8, 0xA3#8, 0xA4#8, 0xA5#8, 0xA6#8, 0xA7#8] = (0xa7a6a5a4a3a2a1a0#64, 0#64) ∧
    tailPack ((List.range 15).map fun i => BitVec.ofNat 8 (0xA0 + i)) =
      (0xa7a6a5a4a3a2a1a0#64, 0x00aeadacabaaa9a8#64) := by decide

/-! ### One step of each command: vectors of `95_test_vectors.md` -/

/-- Vector IN3: seed 0xffffffff is zero-extended. -/
theorem test_init_in3 :
    nextWith (exec .init { State.reset with seedPresent := true, seedIn := 0xffffffff#32, msgLen := 17#64 })
      (fun t => lanesAre .absorb 0x00000000ffffffff#64 0#64 0#64 t && decide (t.mlen = 17#64 ∧ t.seed = 0xffffffff#32))
      = true := by decide

/-- Vector IN5: an absent seed is 0 whatever `seed_in` carries. -/
theorem test_init_in5 :
    nextWith (exec .init { State.reset with seedIn := 0xdeadbeef#32, msgLen := 1#64 })
      (fun t => lanesAre .absorb 0#64 0#64 0#64 t && decide (t.mlen = 1#64 ∧ t.seed = 0#32)) = true := by decide

/-- Vector BK1. -/
theorem test_block_bk1 :
    nextWith (exec .block (absorbing (messageA 16)))
      (lanesAre .absorb 0x178124fd7f939672#64 0xffd23de956740ab2#64 16#64) = true := by decide

/-- Vector BK6: a block of zero bytes is not a no-op. -/
theorem test_block_bk6 :
    nextWith (exec .block (absorbing (List.replicate 16 0#8)))
      (lanesAre .absorb 0x0000000052dce729#64 0x00000001d699de82#64 16#64) = true := by decide

/-- The example of `42_tail.md` R150: "hello". -/
theorem test_tail_hello :
    nextWith (exec (.tail 5) (absorbing hello)) (lanesAre .tailed 0x8c3f01c9e77511c7#64 0#64 5#64) = true := by decide

/-- Vector Z1: a zero byte leaves the lanes and counts. -/
theorem test_tail_z1 :
    nextWith (exec (.tail 1) (absorbing [0#8])) (lanesAre .tailed 0#64 0#64 1#64) = true := by decide

/-- Vector FN4, the lanes and the digest. -/
theorem test_final_fn4 :
    nextWith (exec .final { tailed 5 with h1 := 0x8c3f01c9e77511c7#64, h2 := 0#64 }) (fun t =>
      lanesAre .done 0xcbd8a7b341bd9b02#64 0x5b1e906a48ae1d19#64 5#64 t && decide (readDigest t =
        .ok [0x02#8, 0x9b#8, 0xbd#8, 0x41#8, 0xb3#8, 0xa7#8, 0xd8#8, 0xcb#8,
          0x19#8, 0x1d#8, 0xae#8, 0x48#8, 0x6a#8, 0x90#8, 0x1e#8, 0x5b#8])) = true := by
  decide

/-- Vector FN10: both lanes with the top bit only. -/
theorem test_final_fn10 :
    nextWith (exec .final { tailed 0 with h1 := 0x8000000000000000#64, h2 := 0x8000000000000000#64 })
      (lanesAre .done 0x8f780810af31a493#64 0x1ef010215e634926#64 0#64) = true := by decide

/-- Program F4 of `96_more_vectors.md`, step 2: TAIL 3 with 5 bytes remaining raises Framing, code 4. -/
theorem test_fault_f4 :
    nextWith (step (onPort [0x33#8] (absorbing hello)))
      (fun t => decide (t.flt = true ∧ t.fcauseOut = 4#3 ∧ t.ph = .absorb ∧ t.length = 0#64)) = true := by decide

/-- R235: word `30` in IDLE reports Sequence, code 3. -/
theorem test_fault_tail0_idle :
    nextWith (step (onPort [0x30#8] (ready hello))) (fun t => decide (t.flt = true ∧ t.fcauseOut = 3#3)) = true := by
  decide

/-- A word from the opcode table is the first instruction run after reset (R90): INIT runs, BLOCK raises Sequence (R233). -/
theorem test_withFetchWord :
    nextWith (step (State.withFetchWord State.reset 8 0x10)) (fun t => decide (t.ph = .absorb ∧ t.flt = false)) = true ∧
    nextWith (step (State.withFetchWord State.reset 8 0x20)) (fun t => decide (t.fcause = .sequence)) = true ∧
    decodeTableWord 8 0x35 = some (.tail 5) ∧ decodeTableWord 8 0x00 = none := by decide

/-- From reset nothing runs until the host raises `start` or supplies a word (R260). -/
theorem test_reset_idles : nextWith (step State.reset) (fun t => decide (t = State.reset)) = true := by decide

/-- A byte the host never placed stops the run (R51, R68). -/
theorem test_block_unplaced :
    faultWith (exec .block { absorbing [] with mlen := 16#64 }) .messageByteAbsent = true := by decide

/-- U15: `start` and a command word in the same step are refused. -/
theorem test_both_modes_refused :
    refusedWith (step { onPort [0x10#8] (ready hello) with start := true }) .bothDrivingModes = true := by decide

/-- The parameters of R6 and the constants R33: the round-add constants are 32-bit. -/
theorem test_config : Config.blockBytes = 16 ∧ Config.digestBytes = 16 ∧ Config.ra1.toNat = 0x52dce729 ∧
    Config.standard.nMax.toNat = 2 ^ 64 - 1 := by decide

/-- Assembler lines of R94, R95. -/
theorem test_parse :
    parseLine ['T', 'A', 'I', 'L', ' ', '5', ' ', ';', 'x'] = some (.command (.tail 5)) ∧
    parseLine ['T', 'A', 'I', 'L', ' ', '1', '6'] = none ∧
    parseLine ['B', 'L', 'O', 'C', 'K', 'S', ' ', '0'] = some (.blocks 0) ∧
    parseLine ['.', 'm', 's', 'g'] = some (.message []) ∧
    parseLine ['.', 'm', 's', 'g', ' ', '6', '8', ' ', '6', 'f'] = some (.message [0x68#8, 0x6f#8]) ∧
    parseLine ['.', 's', 'e', 'e', 'd', ' ', '1', '0', '0'] = some (.seed 100#32) := by decide

/-! ### Witnesses: a state and operands that meet each statement's hypotheses -/

theorem test_words_of_the_map :
    (0x10#8 &&& 0xFF#8 = 0x10#8) ∧ (0x20#8 &&& 0xFF#8 = 0x20#8) ∧ (0x30#8 &&& 0xF0#8 = 0x30#8) ∧
    (0x3F#8 &&& 0xF0#8 = 0x30#8) ∧ (0x40#8 &&& 0xFF#8 = 0x40#8) ∧
    (0x2F#8 &&& 0xFF#8 ≠ 0x10#8 ∧ 0x2F#8 &&& 0xFF#8 ≠ 0x20#8 ∧ 0x2F#8 &&& 0xF0#8 ≠ 0x30#8 ∧ 0x2F#8 &&& 0xFF#8 ≠ 0x40#8) ∧
    ((absorbing hello).flt = false ∧ (absorbing hello).ph = .absorb) ∧ (ready hello).flt = false := by decide

/-- ProgramBytesRoundTrip, both clauses. -/
theorem test_witness_program :
    (∀ i ∈ [Instr.init, .block, .tail 0, .tail 15, .final], i.wellFormed = true) ∧
    decodeProgram [0x10#8, 0x3F#8, 0x40#8] = some [.init, .tail 15, .final] := by decide

/-- StepRunsDecodedCommand, each case of its disjunction. -/
theorem test_witness_portStep :
    (let s := onPort [0x35#8, 0x40#8] (absorbing hello)
     s.rst = false ∧ s.drive = .commandPort [0x35#8, 0x40#8] ∧ s.start = false ∧ decode 0x35#8 = .command (.tail 5)) ∧
    ({ absorbing hello with start := true }).ph.isOpen = true ∧ ({ stopped with start := true }).flt = true := by decide

/-- BothDrivingModesRefused. -/
theorem test_witness_bothModes :
    let s := { onPort [0x10#8] (ready hello) with start := true }
    s.rst = false ∧ s.drive = .commandPort [0x10#8] ∧ s.start = true ∧ s.ph.isOpen = false ∧ s.flt = false := by decide

/-- IllegalWordRaisesIllegalCommand, in ABSORB and in IDLE. -/
theorem test_witness_illegalWord :
    (let s := onPort [0x21#8] (absorbing hello)
     s.rst = false ∧ s.drive = .commandPort [0x21#8] ∧ s.start = false ∧ s.flt = false) ∧
    (0x21#8 ≠ 0x10#8 ∧ 0x21#8 ≠ 0x20#8 ∧ 0x21#8 &&& 0xF0#8 ≠ 0x30#8 ∧ 0x21#8 ≠ 0x40#8) ∧
    (onPort [0xFF#8] State.reset).flt = false := by decide

/-- IllegalWordUnderUnsampledStart, in an open computation and in a stopped engine. -/
theorem test_witness_illegalWordUnderStart :
    (let s := { onPort [0x21#8] (absorbing hello) with start := true }
     s.rst = false ∧ s.drive = .commandPort [0x21#8] ∧ s.start = true ∧ s.ph.isOpen = true ∧ s.flt = false) ∧
    (let s := { onPort [0x21#8] stopped with start := true }
     s.rst = false ∧ s.drive = .commandPort [0x21#8] ∧ s.start = true ∧ s.flt = true) := by decide

/-- SequencerStepRunsItsChoice: a command issued, nothing issued, and an empty port. -/
theorem test_witness_sequencerStep :
    ({ ready hello with start := true }).rst = false ∧ ({ ready hello with start := true }).drive = .sequencer ∧
    nextCommand { ready hello with start := true } = .issue .init ∧ nextCommand (ready hello) = .nothing ∧
    (onPort [] State.reset).drive = .commandPort [] := by decide

/-- SequencerNextCommand: every phase, and 16, 15, 1 and 0 bytes remaining. -/
theorem test_witness_nextCommand :
    stopped.flt = true ∧ (ready hello).ph = .idle ∧ finished.ph = .done ∧ (tailed 5).ph = .tailed ∧
    nextCommand (absorbing (messageA 16)) = .issue .block ∧ nextCommand (absorbing (messageA 15)) = .issue (.tail 15) ∧
    nextCommand (absorbing (messageA 1)) = .issue (.tail 1) ∧ nextCommand (absorbing []) = .issue .final ∧
    tailChoice 0 = .assertFails ∧ tailChoice 16 = .assertFails ∧ tailChoice 1 = .issue (.tail 1) ∧
    tailChoice 15 = .issue (.tail 15) := by decide

/-- StartIsOnlyARequest, both clauses, the second for both its reasons. -/
theorem test_witness_start :
    (let s := { finished with start := true }
     s.rst = false ∧ s.drive = .sequencer ∧ s.start = true ∧ s.ph.isOpen = false ∧ s.flt = false) ∧
    ((absorbing hello).rst = false ∧ (absorbing hello).drive = .sequencer ∧ (absorbing hello).ph.isOpen = true) ∧
    (stopped.rst = false ∧ stopped.drive = .sequencer ∧ stopped.flt = true) := by decide

/-- ResetFromAnyState, in mid-computation and after a fault. -/
theorem test_witness_reset : ({ tailed 5 with rst := true }).rst = true ∧ ({ stopped with rst := true }).rst = true := by
  decide

/-- InitCompletes, from IDLE with an empty message and from DONE with `msg_len = N_MAX`. -/
theorem test_witness_initCompletes :
    ((ready []).flt = false ∧ (ready []).ph = .idle ∧ (ready []).msgLen.toNat ≤ (ready []).cfg.nMax.toNat) ∧
    (let s := { finished with msgLen := 41#64, cfg := { nMax := 41#64 } }
     s.flt = false ∧ s.ph = .done ∧ s.msgLen.toNat ≤ s.cfg.nMax.toNat) := by decide

/-- InitFrame, without and with a new fault. -/
theorem test_witness_initFrame :
    (∃ t, exec .init (ready hello) = .next t ∧ t.flt = (ready hello).flt) ∧
      ∃ t, exec .init (absorbing hello) = .next t ∧ t.flt = true := by
  refine ⟨?_, ?_⟩
  · simpa using nextWith_elim (r := exec .init (ready hello)) (p := fun t => decide (t.flt = (ready hello).flt)) (by decide)
  · simpa using nextWith_elim (r := exec .init (absorbing hello)) (p := fun t => t.flt) (by decide)

/-- InitForgetsEarlierComputation: a fresh state and one with the remains of a computation. -/
theorem test_witness_initForgets :
    let s := ready []
    let s' := { finished with seedPresent := true }
    (s.flt = false ∧ s'.flt = false ∧ s.seedPresent = s'.seedPresent ∧ s.seedIn = s'.seedIn ∧ s.msgLen = s'.msgLen ∧
      s.cfg = s'.cfg ∧ s.h1 ≠ s'.h1) ∧
    (∃ t, exec .init s = .next t ∧ t.flt = false) ∧ ∃ t, exec .init s' = .next t ∧ t.flt = false := by
  refine ⟨by decide, ?_, ?_⟩
  · simpa using nextWith_elim (r := exec .init (ready [])) (p := fun t => !t.flt) (by decide)
  · simpa using nextWith_elim (r := exec .init { finished with seedPresent := true }) (p := fun t => !t.flt) (by decide)

/-- SeedRegisterIsNeverReread. -/
theorem test_witness_seed : Instr.tail 5 ≠ .init ∧ initCheck (ready hello) = none ∧ (ready hello).flt = false := by decide

/-- BlockCompletes, with exactly 16 bytes remaining. -/
theorem test_witness_blockCompletes :
    let s := absorbing (messageA 16)
    s.flt = false ∧ s.ph = .absorb ∧ s.length.toNat + 16 ≤ s.mlen.toNat ∧
      Memory.readBytes s.msg s.length.toNat 16 = some (messageA 16) := by decide

/-- BlockFrame, without and with a new fault. -/
theorem test_witness_blockFrame :
    (∃ t, exec .block (absorbing (messageA 16)) = .next t ∧ t.flt = (absorbing (messageA 16)).flt) ∧
      ∃ t, exec .block (absorbing hello) = .next t ∧ t.flt = true := by
  refine ⟨?_, ?_⟩
  · simpa [absorbing, ready, State.reset] using
      nextWith_elim (r := exec .block (absorbing (messageA 16))) (p := fun t => !t.flt) (by decide)
  · simpa using nextWith_elim (r := exec .block (absorbing hello)) (p := fun t => t.flt) (by decide)

/-- TailCompletes, for 1 and for 15 bytes. -/
theorem test_witness_tailCompletes :
    (let s := absorbing (messageA 1)
     s.flt = false ∧ s.ph = .absorb ∧ s.length.toNat + 1 = s.mlen.toNat ∧
       Memory.readBytes s.msg s.length.toNat 1 = some (messageA 1)) ∧
    (let s := absorbing (messageA 15)
     s.flt = false ∧ s.ph = .absorb ∧ s.length.toNat + 15 = s.mlen.toNat ∧
       Memory.readBytes s.msg s.length.toNat 15 = some (messageA 15)) := by decide

/-- TailPackPlacesEveryByte: the shortest and the longest tail. -/
theorem test_witness_tailPack : (messageA 1).length = 1 ∧ (messageA 8).length = 8 ∧ (messageA 15).length = 15 := by decide

/-- TailFrame, with a tail of 8 bytes, and with a new fault. -/
theorem test_witness_tailFrame :
    (∃ t, exec (.tail 8) (absorbing (messageA 8)) = .next t ∧ t.flt = false) ∧
      ∃ t, exec (.tail 0) (absorbing hello) = .next t ∧ t.flt = true := by
  refine ⟨?_, ?_⟩
  · simpa using nextWith_elim (r := exec (.tail 8) (absorbing (messageA 8))) (p := fun t => !t.flt) (by decide)
  · simpa using nextWith_elim (r := exec (.tail 0) (absorbing hello)) (p := fun t => t.flt) (by decide)

/-- FinalCompletes, from ABSORB and from TAILED. -/
theorem test_witness_finalCompletes :
    ((absorbing []).flt = false ∧ (absorbing []).ph = .absorb ∧ (absorbing []).length = (absorbing []).mlen) ∧
    ((tailed 5).flt = false ∧ (tailed 5).ph = .tailed ∧ (tailed 5).length = (tailed 5).mlen) := by decide

/-- FinalFrame, DigestBytesAreTheLanes and the last clause of SpacesReached; and FINAL with a new fault. -/
theorem test_witness_finalFrame :
    ((tailed 5).flt = false ∧ ∃ t, exec .final (tailed 5) = .next t ∧ t.flt = false) ∧
      ∃ t, exec .final (absorbing hello) = .next t ∧ t.flt = true := by
  refine ⟨⟨by decide, ?_⟩, ?_⟩
  · simpa using nextWith_elim (r := exec .final (tailed 5)) (p := fun t => !t.flt) (by decide)
  · simpa using nextWith_elim (r := exec .final (absorbing hello)) (p := fun t => t.flt) (by decide)

/-- A state in DONE that meets the registers' invariant (DigestReadableExactlyWhenDone, DigestPortIsTheLanes,
StepKeepsRegisterInvariant). -/
theorem test_witness_finished : finished.Inv ∧ finished.EndOfRun := by
  refine ⟨⟨by decide, by decide, by decide, by decide, by decide, by decide, by decide, by decide, by decide⟩, ?_⟩
  exact ⟨rfl, rfl⟩

/-- A state in ABSORB and a stopped one that meet it: the digest cannot be read there. -/
theorem test_witness_inv_absorb :
    (absorbing hello).Inv ∧ ¬ ((absorbing hello).ph = .done ∧ (absorbing hello).flt = false) ∧ stopped.Inv := by
  refine ⟨⟨by decide, by decide, by decide, by decide, by decide, by decide, by decide, by decide, by decide⟩, by decide, ?_⟩
  exact ⟨by decide, by decide, by decide, by decide, by decide, by decide, by decide, by decide, by decide⟩

/-- DigestStaysUntilInitOrReset: no word, INIT, and a command that faults. -/
theorem test_witness_digestStays :
    finished.EndOfRun ∧ finished.rst = false ∧ (∃ t, step finished = .next t ∧ t.ph = .done) ∧
      (∃ t, step (onPort [0x10#8] finished) = .next t ∧ t.ph = .absorb) ∧
      ∃ t, step (onPort [0x40#8] finished) = .next t ∧ t.flt = true := by
  refine ⟨⟨rfl, rfl⟩, rfl, ?_, ?_, ?_⟩
  · simpa using nextWith_elim (r := step finished) (p := fun t => decide (t.ph = .done)) (by decide)
  · simpa using nextWith_elim (r := step (onPort [0x10#8] finished)) (p := fun t => decide (t.ph = .absorb)) (by decide)
  · simpa using nextWith_elim (r := step (onPort [0x40#8] finished)) (p := fun t => t.flt) (by decide)

/-- SequenceFaultTable: a phase that does not allow the command, and one that does where another fault is raised. -/
theorem test_witness_sequence :
    ((ready hello).flt = false ∧ (ready hello).ph ∉ allowedIn .final) ∧
    ((absorbing hello).flt = false ∧ (absorbing hello).ph ∈ allowedIn .final) ∧
    ∃ t, exec .final (absorbing hello) = .next t ∧ t.flt = true := by
  refine ⟨by decide, by decide, ?_⟩
  simpa using nextWith_elim (r := exec .final (absorbing hello)) (p := fun t => t.flt) (by decide)

/-- FramingFaults, the misframed side: 15 bytes for BLOCK, one byte too many for TAIL 14, a byte left for FINAL, and
`msg_len = N_MAX + 1` for INIT. -/
theorem test_witness_misframed :
    (misframed .block (absorbing (messageA 15)) ∧ (absorbing (messageA 15)).ph ∈ allowedIn .block) ∧
    (misframed (.tail 14) (absorbing (messageA 15)) ∧ (absorbing (messageA 15)).ph ∈ allowedIn (.tail 14)) ∧
    (misframed .final (absorbing (messageA 1)) ∧ (absorbing (messageA 1)).ph ∈ allowedIn .final) ∧
    (misframed .init { ready hello with cfg := { nMax := 4#64 } } ∧ (ready hello).ph ∈ allowedIn .init) := by
  simp only [misframed]; decide

/-- FramingFaults, the other side: 16 bytes for BLOCK, 15 for TAIL 15, none for FINAL, `msg_len = N_MAX` for INIT. -/
theorem test_witness_framed :
    ¬ misframed .block (absorbing (messageA 16)) ∧ ¬ misframed (.tail 15) (absorbing (messageA 15)) ∧
    ¬ misframed .final (absorbing []) ∧ ¬ misframed .init { ready hello with cfg := { nMax := 5#64 } } := by
  simp only [misframed]; decide

/-- ... and with them the command answers a next state. -/
theorem test_witness_framed_next : ∃ t, exec .block (absorbing (messageA 16)) = .next t ∧ t.flt = false := by
  simpa using nextWith_elim (r := exec .block (absorbing (messageA 16))) (p := fun t => !t.flt) (by decide)

/-- TailLengthFault, both clauses, at 0 and 16. -/
theorem test_witness_tailLength :
    ((absorbing hello).flt = false ∧ (absorbing hello).ph = .absorb ∧ ((0 = 0 ∨ 15 < 0) ∧ (16 = 0 ∨ 15 < 16))) ∧
    (let s := onPort [0x30#8] (absorbing hello)
     s.flt = false ∧ s.ph = .absorb ∧ s.rst = false ∧ s.drive = .commandPort [0x30#8]) := by decide

/-- FaultPriority, clause by clause. -/
theorem test_witness_priority :
    stopped.flt = true ∧ ((absorbing hello).flt = false ∧ decode 0x21#8 = .illegal) ∧
    (decode 0x30#8 = .command (.tail 0) ∧ (ready hello).ph ∉ allowedIn (.tail 0)) ∧
    ((absorbing hello).ph ∈ allowedIn (.tail 0)) ∧
    (decode 0x33#8 = .command (.tail 3) ∧ Instr.tail 3 ≠ .tail 0 ∧ misframed (.tail 3) (absorbing hello)) ∧
    (decode 0x35#8 = .command (.tail 5) ∧ ¬ misframed (.tail 5) (absorbing hello)) := by
  simp only [misframed]; decide

theorem test_witness_priority_next : ∃ t, runWord 0x35#8 (absorbing hello) = .next t ∧ t.flt = false := by
  simpa using nextWith_elim (r := runWord 0x35#8 (absorbing hello)) (p := fun t => !t.flt) (by decide)

/-- FaultEntryExactly, for a command and for an illegal word. -/
theorem test_witness_faultEntry :
    ((absorbing hello).flt = false ∧ ∃ t, exec .block (absorbing hello) = .next t ∧ t.flt = true) ∧
      ∃ t, runWord 0x00#8 (absorbing hello) = .next t ∧ t.flt = true := by
  refine ⟨⟨by decide, ?_⟩, ?_⟩
  · simpa using nextWith_elim (r := exec .block (absorbing hello)) (p := fun t => t.flt) (by decide)
  · simpa using nextWith_elim (r := runWord 0x00#8 (absorbing hello)) (p := fun t => t.flt) (by decide)

/-- StoppedUntilReset, each clause. -/
theorem test_witness_stopped :
    (stopped.flt = true ∧ stopped.rst = false ∧ stopped.drive = .sequencer ∧
      (onPort [0xFF#8, 0x40#8] stopped).drive = .commandPort [0xFF#8, 0x40#8] ∧ (onPort [] stopped).drive = .commandPort []) ∧
    ∃ t, step { stopped with rst := true } = .next t ∧ t.flt = false := by
  refine ⟨by decide, ?_⟩
  simpa using nextWith_elim (r := step { stopped with rst := true }) (p := fun t => !t.flt) (by decide)

/-- PhaseLifecycle: INIT, TAIL and FINAL change the phase. -/
theorem test_witness_phases :
    (∃ t, exec .init (ready hello) = .next t ∧ t.ph ≠ (ready hello).ph) ∧
    (∃ t, exec (.tail 5) (absorbing hello) = .next t ∧ t.ph ≠ (absorbing hello).ph) ∧
    ∃ t, exec .final (tailed 5) = .next t ∧ t.ph ≠ (tailed 5).ph := by
  refine ⟨?_, ?_, ?_⟩
  · simpa using nextWith_elim (r := exec .init (ready hello)) (p := fun t => decide (t.ph ≠ (ready hello).ph)) (by decide)
  · simpa using nextWith_elim (r := exec (.tail 5) (absorbing hello))
      (p := fun t => decide (t.ph ≠ (absorbing hello).ph)) (by decide)
  · simpa using nextWith_elim (r := exec .final (tailed 5)) (p := fun t => decide (t.ph ≠ (tailed 5).ph)) (by decide)

/-- SpacesReached: a longer message agrees with the message on what TAIL 5 reads; and a command other than FINAL. -/
theorem test_witness_spaces :
    (∀ a, readsOffset (.tail 5) (absorbing hello) a →
      Memory.read (Memory.writeBytes [] 0 (hello ++ [0xEE#8])) a = Memory.read (absorbing hello).msg a) ∧
    Instr.block ≠ .final ∧ ∃ t, exec .block (absorbing (messageA 16)) = .next t ∧ t.flt = false := by
  refine ⟨fun a h => ?_, by decide, test_witness_framed_next⟩
  have all : ∀ n : Fin 5, Memory.read (Memory.writeBytes [] 0 (hello ++ [0xEE#8])) n.val =
      Memory.read (absorbing hello).msg n.val := by decide
  have ha : a < 5 := by simpa [absorbing, ready, State.reset] using h.2
  exact all ⟨a, ha⟩

/-- NoReadOutsideTheMessage: 15 bytes for BLOCK, 5 bytes for TAIL 4. -/
theorem test_witness_noRead :
    (let s := absorbing (messageA 15)
     s.flt = false ∧ s.ph = .absorb ∧ s.mlen.toNat < s.length.toNat + 16) ∧
    (absorbing hello).length.toNat + 4 ≠ (absorbing hello).mlen.toNat := by decide

/-- PlacedMessageNeverStops, in both driving modes. -/
theorem test_witness_placed :
    (∀ a, a < (absorbing hello).mlen.toNat → (Memory.read (absorbing hello).msg a).isSome = true) ∧
    (absorbing hello).drive = .sequencer ∧ (onPort [0x35#8] (absorbing hello)).start = false := by
  refine ⟨fun a h => ?_, by decide, by decide⟩
  have all : ∀ n : Fin 5, (Memory.read (absorbing hello).msg n.val).isSome = true := by decide
  have ha : a < 5 := by simpa [absorbing, ready, State.reset, hello] using h
  exact all ⟨a, ha⟩

/-- UnplacedByteStops: the last of 16 bytes and the last of 5 bytes not placed. -/
theorem test_witness_unplaced :
    (let s := { absorbing (messageA 15) with mlen := 16#64 }
     s.flt = false ∧ s.ph = .absorb ∧ s.length.toNat + 16 ≤ s.mlen.toNat ∧ Memory.read s.msg 15 = none) ∧
    (let s := { absorbing (messageA 4) with mlen := 5#64 }
     s.flt = false ∧ s.ph = .absorb ∧ s.length.toNat + 5 = s.mlen.toNat ∧ Memory.read s.msg 4 = none) := by decide

/-- StepKeepsRegisterInvariant: from ABSORB a step answers a next state. -/
theorem test_witness_stepInv :
    (absorbing hello).Inv ∧ ∃ t, step (absorbing hello) = .next t ∧ t.ph = .tailed := by
  refine ⟨test_witness_inv_absorb.1, ?_⟩
  simpa using nextWith_elim (r := step (absorbing hello)) (p := fun t => decide (t.ph = .tailed)) (by decide)

/-- StepKeepsLanesInvariant: before any byte is consumed the lanes are those INIT left. -/
theorem test_witness_lanesInv : (absorbing hello).LanesInv := by
  refine ⟨fun _ => ⟨[], by unfold State.Prefix; decide, by decide⟩, ?_, ?_⟩ <;> simp [absorbing]

/-- U14, R260: `rst` asserted and released in mid-computation, with no step between, loses the computation. -/
theorem test_reset_pulse :
    (match hostMove (.driveReset true) (tailed 5) with
     | .ok t => decide (hostMove (.driveReset false) t = .ok { State.reset with rst := false })
     | .error _ => false) = true := by decide

/-- Running a line feeds the port behind the words waiting there, and is refused where the sequencer drives an open computation
(log entry 20). -/
theorem test_runLine :
    nextWith (runLine (.command (.tail 5)) (onPort [] (absorbing hello))) (fun t => decide (t.ph = .tailed)) = true ∧
    nextWith (runLine (.command .final) (onPort [0x35#8] (absorbing hello)))
      (fun t => decide (t.ph = .tailed ∧ t.drive = .commandPort [0x40#8])) = true ∧
    refusedWith (runLine (.command .final) (absorbing [])) .drivingModeFixed = true ∧
    nextWith (runLine (.command .init) { ready hello with rst := true })
      (fun t => decide (t.ph = .idle ∧ t.drive = .commandPort [0x10#8])) = true := by decide

/-- HostMovesWriteNoRegister: moves that succeed, one of them while a computation is open. -/
theorem test_witness_hostMove :
    hostMove (.placeMessage hello) State.reset = .ok { State.reset with msg := Memory.writeBytes [] 0 hello } ∧
    hostMove (.driveStart true) (absorbing hello) = .ok { absorbing hello with start := true } ∧
    (absorbing hello).busyOut = true ∧ hostMove (.placeMessage []) (absorbing hello) = .error .messageInUse ∧
    HostMove.driveStart true ≠ .driveReset true := by decide

/-- ScheduleWords and ScheduleIsTheOnlyFaultFreeSequence: the schedule of "hello" runs to the end. -/
theorem test_witness_schedule :
    Instr.tail 5 ∈ schedule 5 ∧ (ready hello).flt = false ∧ Instr.init ∉ [Instr.tail 5, .final] ∧
      ∃ t, execAll [.init, .tail 5, .final] (ready hello) = .next t ∧ t.EndOfRun := by
  refine ⟨by decide, by decide, by decide, ?_⟩
  simpa [State.EndOfRun] using nextWith_elim (r := execAll [.init, .tail 5, .final] (ready hello))
    (p := fun t => decide (t.ph = .done ∧ t.flt = false)) (by decide)

/-- SequencerRunComputes and CommandPortRunComputes. -/
theorem test_witness_ready :
    (let s := { ready hello with start := true }
     s.ReadyFor hello ∧ s.drive = .sequencer ∧ s.start = true) ∧
    (let s := onPort (encodeProgram (schedule hello.length)) (ready hello)
     s.ReadyFor hello ∧ s.start = false ∧ s.drive = .commandPort (encodeProgram (schedule hello.length))) :=
  ⟨⟨⟨rfl, rfl, rfl, by decide, by unfold State.Prefix; decide⟩, rfl, rfl⟩,
    ⟨⟨rfl, rfl, rfl, by decide, by unfold State.Prefix; decide⟩, rfl, rfl⟩⟩

/-- WordFormat and AssemblerExpansions. -/
theorem test_witness_format :
    (messageA 8).length = 8 ∧ (ready []).busyOut = false ∧ ([] : List Byte).length < 2 ^ 64 ∧ hello.length < 2 ^ 64 := by
  decide

/-- AssemblerExpansions, the clause on words: TAIL 15, BLOCKS 2 and COMPUTE for 41 bytes; AssemblerText: the digits of 15, 16 and
2^32 - 1 (R94). -/
theorem test_witness_assembler :
    (∀ i ∈ AsmLine.commands 41 (.command (.tail 15)), i.wellFormed = true) ∧
    (∀ i ∈ AsmLine.commands 41 (.blocks 2), i.wellFormed = true) ∧
    (∀ i ∈ AsmLine.commands 41 .computeAll, i.wellFormed = true) ∧
    ([1, 5] : List (Fin 10)) ≠ [] ∧ decimalNumber [1, 5] = 15 ∧ decimalText [1, 6] = ['1', '6'] ∧
    decimalNumber [4, 2, 9, 4, 9, 6, 7, 2, 9, 5] = 2 ^ 32 - 1 ∧ hexText [0x6F#8] = [' ', '6', 'f'] := by decide

/-- The codes of `60_exceptions.md` R230 and `10_state.md` R26. -/
theorem test_codes :
    Cause.tailLength.code = 1#3 ∧ Cause.illegalCommand.code = 2#3 ∧ Cause.sequence.code = 3#3 ∧ Cause.framing.code = 4#3 ∧
    Phase.idle.code = 0#2 ∧ Phase.absorb.code = 1#2 ∧ Phase.tailed.code = 2#2 ∧ Phase.done.code = 3#2 := by decide

/-- LeftRotation and RightRotation, at the ends of the range of the amount (R103). -/
theorem test_witness_rotation :
    rotl64 0x8000000000000000#64 1 = 1#64 ∧ rotl64 1#64 63 = 0x8000000000000000#64 := by decide

end Sys2Proof.Tests
end

/-! PROOFS. What a command that completes does, said once for all four: `Completes` and its tie to `exec`. The frame, the
phases and the registers' invariant are read off it. -/

namespace Sys2Proof.Machine

/-- The command passes its checks and has its effect (R130, R131, R150, R170): the conditions on the state before, and the
state after. `exec_next` ties it to `exec`. -/
inductive Completes : Instr → State → State → Prop where
  | init {s : State} (hclosed : s.ph.isOpen = false) (hlen : s.msgLen.toNat ≤ s.cfg.nMax.toNat) :
      Completes .init s (openComputation s)
  | block {s : State} (b : List Byte) (hph : s.ph = .absorb) (hfit : s.length.toNat + 16 ≤ s.mlen.toNat)
      (hread : Memory.readBytes s.msg s.length.toNat 16 = some b) : Completes .block s (absorbBlock b s)
  | tail {s : State} {n : Nat} (b : List Byte) (hph : s.ph = .absorb) (hmin : 1 ≤ n) (hmax : n ≤ 15)
      (hfit : s.length.toNat + n = s.mlen.toNat)
      (hread : Memory.readBytes s.msg s.length.toNat n = some b) : Completes (.tail n) s (absorbTail b s)
  | final {s : State} (hopen : s.ph.isOpen = true) (hall : s.length = s.mlen) :
      Completes .final s (finishComputation s)

theorem initCheck_ne_noFault {s : State} {c : Cause} (h : initCheck s = some c) : c ≠ .noFault := by
  rcases initCheck_some h with ⟨rfl, _⟩ | ⟨rfl, _⟩ <;> simp

theorem blockCheck_ne_noFault {s : State} {c : Cause} (h : blockCheck s = some c) : c ≠ .noFault := by
  rcases blockCheck_some h with ⟨rfl, _⟩ | ⟨rfl, _⟩ <;> simp

theorem tailCheck_ne_noFault {n : Nat} {s : State} {c : Cause} (h : tailCheck n s = some c) : c ≠ .noFault := by
  rcases tailCheck_some h with ⟨rfl, _⟩ | ⟨rfl, _⟩ | ⟨rfl, _⟩ <;> simp

theorem finalCheck_ne_noFault {s : State} {c : Cause} (h : finalCheck s = some c) : c ≠ .noFault := by
  rcases finalCheck_some h with ⟨rfl, _⟩ | ⟨rfl, _⟩ <;> simp

/-- What a command can do (R235 to R237): it is ignored by a stopped engine, or takes a fault, or completes. -/
theorem exec_next {i : Instr} {s t : State} (h : exec i s = .next t) :
    (s.flt = true ∧ t = s) ∨ (s.flt = false ∧ ∃ c, c ≠ .noFault ∧ t = raiseFault c s) ∨
      (s.flt = false ∧ Completes i s t) := by
  cases i with
  | init =>
    rcases execInit_next h with h | ⟨hf, c, hc, ht⟩ | ⟨hf, hc, rfl⟩
    · exact .inl h
    · exact .inr (.inl ⟨hf, c, initCheck_ne_noFault hc, ht⟩)
    · obtain ⟨hclosed, hlen⟩ := initCheck_none.1 hc
      exact .inr (.inr ⟨hf, .init hclosed hlen⟩)
  | block =>
    rcases execBlock_next h with h | ⟨hf, c, hc, ht⟩ | ⟨hf, hc, b, hb, rfl⟩
    · exact .inl h
    · exact .inr (.inl ⟨hf, c, blockCheck_ne_noFault hc, ht⟩)
    · obtain ⟨hph, hfit⟩ := blockCheck_none.1 hc
      exact .inr (.inr ⟨hf, .block b hph hfit (memRead_ok.1 hb).2⟩)
  | tail n =>
    rcases execTail_next h with h | ⟨hf, c, hc, ht⟩ | ⟨hf, hc, b, hb, rfl⟩
    · exact .inl h
    · exact .inr (.inl ⟨hf, c, tailCheck_ne_noFault hc, ht⟩)
    · obtain ⟨hph, hmin, hmax, hfit⟩ := tailCheck_none.1 hc
      exact .inr (.inr ⟨hf, .tail b hph hmin hmax hfit (memRead_ok.1 hb).2⟩)
  | final =>
    rcases execFinal_next h with h | ⟨hf, c, hc, ht⟩ | ⟨hf, hc, rfl⟩
    · exact .inl h
    · exact .inr (.inl ⟨hf, c, finalCheck_ne_noFault hc, ht⟩)
    · obtain ⟨hopen, hall⟩ := finalCheck_none.1 hc
      exact .inr (.inr ⟨hf, .final hopen hall⟩)

/-- A running engine that has no fault after a command has completed it. -/
theorem exec_completes {i : Instr} {s t : State} (hs : s.flt = false) (h : exec i s = .next t) (ht : t.flt = false) :
    Completes i s t := by
  rcases exec_next h with ⟨hf, _⟩ | ⟨_, c, _, rfl⟩ | ⟨_, hc⟩
  · simp [hs] at hf
  · simp at ht
  · exact hc

/-- INIT whose checks pass opens the computation. -/
theorem exec_init_of_check {s : State} (hf : s.flt = false) (hc : initCheck s = none) :
    exec .init s = .next (openComputation s) := by
  have h : runCommand (initCheck s) (fun s => .next (openComputation s)) s = .next (openComputation s) := by
    rw [hc, runCommand_pass hf]
  exact h

/-! ### The frame of a command -/

theorem SameInputs.refl (s : State) : SameInputs s s := by simp [SameInputs]

theorem sameInputs_raiseFault (c : Cause) (s : State) : SameInputs s (raiseFault c s) := by simp [SameInputs]

/-- A command that completes writes no port, neither the fault flag nor its cause. -/
theorem Completes.frame {i : Instr} {s t : State} (h : Completes i s t) :
    SameInputs s t ∧ t.flt = s.flt ∧ t.fcause = s.fcause := by
  cases h <;> simp [SameInputs]

/-- R39, R213, R236: no command writes what the host drives, and the cause changes with `flt` only. -/
theorem exec_frame {i : Instr} {s t : State} (h : exec i s = .next t) :
    SameInputs s t ∧ (t.flt = s.flt → t.fcause = s.fcause) := by
  rcases exec_next h with ⟨_, rfl⟩ | ⟨hf, c, _, rfl⟩ | ⟨_, hc⟩
  · exact ⟨.refl _, fun _ => rfl⟩
  · exact ⟨sameInputs_raiseFault c s, by simp [hf]⟩
  · obtain ⟨hin, _, hcause⟩ := hc.frame
    exact ⟨hin, fun _ => hcause⟩

/-- What neither a fault nor the completed command writes is unchanged by the command. -/
theorem exec_keeps {α : Type} (f : State → α) {i : Instr} {s t : State} (h : exec i s = .next t)
    (hfault : ∀ c, f (raiseFault c s) = f s) (hdone : Completes i s t → f t = f s) : f t = f s := by
  rcases exec_next h with ⟨_, rfl⟩ | ⟨_, c, _, rfl⟩ | ⟨_, hc⟩
  · rfl
  · exact hfault c
  · exact hdone hc

/-- R24: only INIT writes `seed`. -/
theorem exec_keeps_seed {i : Instr} {s t : State} (h : exec i s = .next t) (hi : i ≠ .init) : t.seed = s.seed :=
  exec_keeps State.seed h (by simp) fun hc => by cases hc <;> simp at hi ⊢

/-- R25: only INIT writes `mlen`. -/
theorem exec_keeps_mlen {i : Instr} {s t : State} (h : exec i s = .next t) (hi : i ≠ .init) : t.mlen = s.mlen :=
  exec_keeps State.mlen h (by simp) fun hc => by cases hc <;> simp at hi ⊢

/-- R53, R54: only FINAL writes the digest space. -/
theorem exec_keeps_digest {i : Instr} {s t : State} (h : exec i s = .next t) (hi : i ≠ .final) : t.digest = s.digest :=
  exec_keeps State.digest h (by simp) fun hc => by cases hc <;> simp at hi ⊢

/-- A tail of at most 8 bytes packs nothing into `k2` (R151). -/
theorem tailPack_snd_of_le {b : List Byte} (h : b.length ≤ 8) : (tailPack b).2 = 0#64 := by
  simp [tailPack, packBytes, Nat.sub_eq_zero_of_le h]

theorem mixKey2_zero : mixKey2 0#64 = 0#64 := by decide

/-- A tail of at most 8 bytes leaves lane 2 (R150, corner case a). -/
theorem absorbTail_h2_of_le {b : List Byte} (s : State) (h : b.length ≤ 8) : (absorbTail b s).h2 = s.h2 := by
  rw [absorbTail_h2, tailMix, tailPack_snd_of_le h, mixKey2_zero]
  simp [xor64]

/-- FINAL writes no digest offset outside its 16 bytes (R171). -/
theorem finishComputation_read_outside (s : State) {a : Nat} (ha : a < digestBase ∨ digestBase + 16 ≤ a) :
    Memory.read (finishComputation s).digest a = Memory.read s.digest a := by
  rw [finishComputation_digest, memWriteDigest]
  exact read_writeBytes_outside (by rwa [digestOf_length])

end Sys2Proof.Machine

/-! PROOFS. The registers' invariant is kept by every move a step is made of: the reset, a word taken, a fault, a completed
command. -/

namespace Sys2Proof.Machine

/-- The reset gives a state that meets the invariant: in IDLE it asks for the memories and the cause only. -/
theorem State.Inv.resetEngine {s : State} (h : s.Inv) : (resetEngine s).Inv where
  message_wf := by simpa using h.message_wf
  digest_wf := by simp [wf_nil]
  cause_iff := by simp
  length_le := by simp
  mlen_le := by simp
  block_aligned := by simp
  all_consumed := by simp
  idle_digest := by simp
  done_digest := by simp

/-- The invariant says nothing of the driving mode. -/
theorem State.Inv.withDrive {s : State} (h : s.Inv) (d : Drive) : State.Inv { s with drive := d } := { h with }

/-- A fault with a cause keeps the invariant. -/
theorem State.Inv.raiseFault {s : State} (h : s.Inv) {c : Cause} (hc : c ≠ .noFault) : (raiseFault c s).Inv :=
  { h with cause_iff := by simp [hc] }

/-- INIT that completes starts at byte 0 of a message no longer than `N_MAX`. -/
theorem State.Inv.openComputation {s : State} (h : s.Inv) (hlen : s.msgLen.toNat ≤ s.cfg.nMax.toNat) :
    (openComputation s).Inv where
  message_wf := by simpa using h.message_wf
  digest_wf := by simpa using h.digest_wf
  cause_iff := by simpa using h.cause_iff
  length_le := by simp
  mlen_le := by simpa using hlen
  block_aligned := by simp
  all_consumed := by simp
  idle_digest := by simp
  done_digest := by simp

/-- BLOCK that completes stays inside the message, 16 bytes on. -/
theorem State.Inv.absorbBlock {s : State} (h : s.Inv) (b : List Byte) (hph : s.ph = .absorb)
    (hfit : s.length.toNat + 16 ≤ s.mlen.toNat) : (absorbBlock b s).Inv := by
  have hlength : (s.length + 16#64).toNat = s.length.toNat + 16 := by bv_omega
  exact {
    message_wf := by simpa using h.message_wf
    digest_wf := by simpa using h.digest_wf
    cause_iff := by simpa using h.cause_iff
    length_le := by simpa only [absorbBlock_length, absorbBlock_mlen, hlength] using fun _ => hfit
    mlen_le := by simpa using h.mlen_le
    block_aligned := by
      have := h.block_aligned hph
      simpa only [absorbBlock_length, hlength, Nat.add_mod_right] using fun _ => this
    all_consumed := by simp [hph]
    idle_digest := by simp [hph]
    done_digest := by simp [hph] }

/-- TAIL that completes has consumed the whole message. -/
theorem State.Inv.absorbTail {s : State} (h : s.Inv) {b : List Byte} (hph : s.ph = .absorb)
    (hfit : s.length.toNat + b.length = s.mlen.toNat) : (absorbTail b s).Inv := by
  have hlength : s.length + BitVec.ofNat 64 b.length = s.mlen := by bv_omega
  exact {
    message_wf := by simpa using h.message_wf
    digest_wf := by simpa using h.digest_wf
    cause_iff := by simpa using h.cause_iff
    length_le := by simp [hlength]
    mlen_le := by simpa using h.mlen_le (by simp [hph])
    block_aligned := by simp
    all_consumed := by simp [hlength]
    idle_digest := by simp
    done_digest := by simp }

/-- FINAL that completes leaves the digest space the encoding of the final lanes. -/
theorem State.Inv.finishComputation {s : State} (h : s.Inv) (hopen : s.ph.isOpen = true) (hall : s.length = s.mlen) :
    (finishComputation s).Inv where
  message_wf := by simpa using h.message_wf
  digest_wf := by
    rw [finishComputation_digest, memWriteDigest]
    exact wf_writeBytes (by simp [digestOf_length, digestBase]) h.digest_wf
  cause_iff := by simpa using h.cause_iff
  length_le := by simp [hall]
  mlen_le := by
    have hph : s.ph ≠ .idle := by intro hidle; simp [hidle, Phase.isOpen] at hopen
    simpa using h.mlen_le hph
  block_aligned := by simp
  all_consumed := by simp [hall]
  idle_digest := by simp
  done_digest := by
    intro _
    rw [finishComputation_digest, finishComputation_h1, finishComputation_h2, memWriteDigest]
    have hread := readBytes_writeBytes_same (digestOf (finalMix (s.h1, s.h2) s.length)) s.digest digestBase
    rwa [digestOf_length] at hread

/-- A command that completes keeps the invariant. -/
theorem State.Inv.completes {i : Instr} {s t : State} (h : s.Inv) (hc : Completes i s t) : t.Inv := by
  cases hc with
  | init _ hlen => exact h.openComputation hlen
  | block b hph hfit _ => exact h.absorbBlock b hph hfit
  | tail b hph _ _ hfit hread => exact h.absorbTail hph (by rwa [readBytes_length hread])
  | final hopen hall => exact h.finishComputation hopen hall

/-- A command keeps the invariant. -/
theorem State.Inv.exec {i : Instr} {s t : State} (h : s.Inv) (ht : exec i s = .next t) : t.Inv := by
  rcases exec_next ht with ⟨_, rfl⟩ | ⟨_, c, hc, rfl⟩ | ⟨_, hc⟩
  · exact h
  · exact h.raiseFault hc
  · exact h.completes hc

/-- A step keeps the invariant. -/
theorem State.Inv.step {s t : State} (h : s.Inv) (ht : step s = .next t) : t.Inv := by
  rcases step_cases ht with ⟨_, he⟩ | he | ⟨d, i, he⟩ | ⟨d, he⟩ | ⟨d, c, hc, _, he⟩
  · cases he; exact h.resetEngine
  · cases he
  · exact (h.withDrive d).exec he
  · cases he; exact h.withDrive d
  · cases he; exact (h.withDrive d).raiseFault hc

end Sys2Proof.Machine

/-! PROOFS. The statements about the state and its registers (`10_state.md`). -/

namespace Sys2Proof.Machine

/-! ### The codes and the status outputs -/

theorem Phase.isOpen_iff {p : Phase} : p.isOpen = true ↔ p = .absorb ∨ p = .tailed := by
  cases p <;> simp [Phase.isOpen]

/-- No computation is open in the other two phases. -/
theorem Phase.isOpen_eq_false_iff {p : Phase} : p.isOpen = false ↔ p = .idle ∨ p = .done := by
  cases p <;> simp [Phase.isOpen]

/-- R26: no two phases have the same code. -/
theorem Phase.code_inj {p q : Phase} : p.code = q.code ↔ p = q := by
  cases p <;> cases q <;> decide

/-- R28: no two causes have the same code. -/
theorem Cause.code_inj {c d : Cause} : c.code = d.code ↔ c = d := by
  cases c <;> cases d <;> decide

/-- R28: the codes 5 to 7 are never shown. -/
theorem Cause.code_le (c : Cause) : c.code.toNat ≤ 4 := by
  cases c <;> decide

theorem State.doneOut_iff {s : State} : s.doneOut = true ↔ s.ph = .done ∧ s.flt = false := by
  simp [State.doneOut]

theorem State.busyOut_iff {s : State} : s.busyOut = true ↔ (s.ph = .absorb ∨ s.ph = .tailed) ∧ s.flt = false := by
  simp [State.busyOut, Phase.isOpen_iff]

/-! ### The register `seed` -/

/-- The state with another value in the register `seed`. -/
def withSeed (v : SeedWord) (s : State) : State := { s with seed := v }

@[simp] theorem withSeed_h1 (v : SeedWord) (s : State) : (withSeed v s).h1 = s.h1 := by cases s; rfl
@[simp] theorem withSeed_h2 (v : SeedWord) (s : State) : (withSeed v s).h2 = s.h2 := by cases s; rfl
@[simp] theorem withSeed_length (v : SeedWord) (s : State) : (withSeed v s).length = s.length := by cases s; rfl
@[simp] theorem withSeed_digest (v : SeedWord) (s : State) : (withSeed v s).digest = s.digest := by cases s; rfl

theorem setLanes_withSeed (p : Word × Word) (v : SeedWord) (s : State) :
    setLanes p (withSeed v s) = withSeed v (setLanes p s) := by cases s; rfl
theorem setLength_withSeed (n : Word) (v : SeedWord) (s : State) :
    setLength n (withSeed v s) = withSeed v (setLength n s) := by cases s; rfl
theorem setPhase_withSeed (p : Phase) (v : SeedWord) (s : State) :
    setPhase p (withSeed v s) = withSeed v (setPhase p s) := by cases s; rfl
theorem setDigest_withSeed (m : Memory) (v : SeedWord) (s : State) :
    setDigest m (withSeed v s) = withSeed v (setDigest m s) := by cases s; rfl

theorem absorbBlock_withSeed (b : List Byte) (v : SeedWord) (s : State) :
    absorbBlock b (withSeed v s) = withSeed v (absorbBlock b s) := by
  rw [absorbBlock, absorbBlock, setLength_withSeed, setLanes_withSeed, withSeed_h1, withSeed_h2, withSeed_length]

theorem absorbTail_withSeed (t : List Byte) (v : SeedWord) (s : State) :
    absorbTail t (withSeed v s) = withSeed v (absorbTail t s) := by
  rw [absorbTail, absorbTail, setLength_withSeed, setLanes_withSeed, setPhase_withSeed, withSeed_h1, withSeed_h2,
    withSeed_length]

theorem finishComputation_withSeed (v : SeedWord) (s : State) :
    finishComputation (withSeed v s) = withSeed v (finishComputation s) := by
  simp only [finishComputation, memWriteDigest, setLanes_withSeed, setDigest_withSeed, setPhase_withSeed, withSeed_h1,
    withSeed_h2, withSeed_length, withSeed_digest]

/-- No command but INIT looks at the register `seed`: a change of it passes through. -/
theorem exec_withSeed {i : Instr} (s : State) (v : SeedWord) (hi : i ≠ .init) :
    exec i (withSeed v s) = mapNext (withSeed v) (exec i s) := by
  cases i with
  | init => exact absurd rfl hi
  | block => exact execBlock_mapNext (withSeed v) rfl (fun _ => rfl) rfl rfl fun b => absorbBlock_withSeed b v s
  | tail n => exact execTail_mapNext (withSeed v) rfl (fun _ => rfl) rfl rfl fun t => absorbTail_withSeed t v s
  | final => exact execFinal_mapNext (withSeed v) rfl (fun _ => rfl) rfl (finishComputation_withSeed v s)

/-- INIT overwrites the register `seed`, whatever it held. -/
theorem openComputation_withSeed (s : State) (v : SeedWord) : openComputation (withSeed v s) = openComputation s := rfl

/-! ### The settled statements -/

/-- Settles O43, by the cases of a step and, for a command, of what it can do. -/
theorem stepKeepsRegisterInvariant : Obligations.StepKeepsRegisterInvariant := by
  unfold Obligations.StepKeepsRegisterInvariant
  exact fun _ _ hs ht => hs.step ht

/-- Settles O14. -/
theorem initFrame : Obligations.InitFrame := by
  unfold Obligations.InitFrame
  intro s t h
  obtain ⟨hin, hcause⟩ := exec_frame h
  exact ⟨fun a => by rw [exec_keeps_digest h (by simp)], hin, hcause⟩

/-- Settles O15: both states are `openComputation`'s, which reads only the ports. -/
theorem initForgetsEarlierComputation : Obligations.InitForgetsEarlierComputation := by
  unfold Obligations.InitForgetsEarlierComputation
  intro s s' t t' hf hf' hpresent hseed hlen _ h h' ht ht'
  cases exec_completes hf h ht
  cases exec_completes hf' h' ht'
  simp [hpresent, hseed, hlen]

/-- Settles O17. -/
theorem seedRegisterIsNeverReread : Obligations.SeedRegisterIsNeverReread := by
  unfold Obligations.SeedRegisterIsNeverReread
  refine ⟨fun i s v hi => exec_withSeed s v hi, fun s v hc hf => ?_⟩
  have hv : exec .init (withSeed v s) = .next (openComputation (withSeed v s)) := exec_init_of_check hf hc
  rw [exec_init_of_check hf hc, ← openComputation_withSeed s v]
  exact hv

/-- Settles O22. -/
theorem tailFrame : Obligations.TailFrame := by
  unfold Obligations.TailFrame
  intro n s t h
  obtain ⟨hin, hcause⟩ := exec_frame h
  refine ⟨exec_keeps_seed h (by simp), exec_keeps_mlen h (by simp),
    fun a => by rw [exec_keeps_digest h (by simp)], hin, hcause, fun hn => ?_⟩
  refine exec_keeps State.h2 h (by simp) fun hc => ?_
  cases hc with
  | tail b _ _ _ _ hread => exact absorbTail_h2_of_le s (by rwa [readBytes_length hread])

/-- Settles O25. -/
theorem finalFrame : Obligations.FinalFrame := by
  unfold Obligations.FinalFrame
  intro s t h
  obtain ⟨hin, hcause⟩ := exec_frame h
  refine ⟨exec_keeps State.length h (by simp) fun hc => ?_, exec_keeps_seed h (by simp), exec_keeps_mlen h (by simp),
    fun a ha => exec_keeps (fun u => Memory.read u.digest a) h (by simp) fun hc => ?_, hin, hcause⟩
  · cases hc; simp
  · cases hc; exact finishComputation_read_outside s ha

/-- Settles O37: a fault writes no phase, and a command that completes goes by its own row. -/
theorem phaseLifecycle : Obligations.PhaseLifecycle := by
  unfold Obligations.PhaseLifecycle
  intro i s t h hne
  rcases exec_next h with ⟨_, rfl⟩ | ⟨_, c, _, rfl⟩ | ⟨_, hc⟩
  · exact absurd rfl hne
  · simp at hne
  · cases hc with
    | init hclosed _ => exact .inl ⟨rfl, Phase.isOpen_eq_false_iff.1 hclosed, openComputation_ph s⟩
    | block b _ _ _ => simp at hne
    | tail b hph _ _ _ _ => exact .inr (.inl ⟨_, rfl, hph, absorbTail_ph b s⟩)
    | final hopen _ => exact .inr (.inr ⟨rfl, Phase.isOpen_iff.1 hopen, finishComputation_ph s⟩)

/-- Settles O11. -/
theorem resetState : Obligations.ResetState := by
  unfold Obligations.ResetState
  exact ⟨rfl, rfl, rfl, rfl, rfl, rfl, fun _ => rfl, rfl, rfl⟩

/-- Settles O29. -/
theorem statusOutputs : Obligations.StatusOutputs := by
  unfold Obligations.StatusOutputs
  intro s
  refine ⟨State.doneOut_iff, State.busyOut_iff, Iff.rfl, ?_, ?_, ?_⟩
  · rw [State.doneOut_iff, State.busyOut_iff]
    rintro ⟨⟨hph, _⟩, hopen, _⟩
    simp [hph] at hopen
  · rw [State.doneOut_iff, State.faultOut]
    rintro ⟨⟨_, hf⟩, ht⟩
    simp [hf] at ht
  · rw [State.busyOut_iff, State.faultOut]
    rintro ⟨⟨_, hf⟩, ht⟩
    simp [hf] at ht

/-- Settles O30: each code is that of its own phase or cause, and the codes are injective. -/
theorem phaseAndCauseCodes : Obligations.PhaseAndCauseCodes := by
  unfold Obligations.PhaseAndCauseCodes
  intro s
  exact ⟨Phase.code_inj (q := .idle), Phase.code_inj (q := .absorb), Phase.code_inj (q := .tailed),
    Phase.code_inj (q := .done), Cause.code_inj (d := .noFault), Cause.code_inj (d := .tailLength),
    Cause.code_inj (d := .illegalCommand), Cause.code_inj (d := .sequence), Cause.code_inj (d := .framing),
    Cause.code_le s.fcause⟩

/-- Settles O42: the reset state has no message, no digest byte and no cause, and in IDLE nothing else is asked. -/
theorem resetMeetsInvariants : Obligations.ResetMeetsInvariants := by
  unfold Obligations.ResetMeetsInvariants
  have hidle : State.reset.ph = .idle := rfl
  refine ⟨⟨wf_nil _, wf_nil _, by decide, ?_, ?_, ?_, ?_, fun _ => rfl, ?_⟩, ⟨?_, ?_, ?_⟩⟩ <;> simp [hidle]

end Sys2Proof.Machine

/-! PROOFS. The packed tail as one little-endian reading (`20_memory.md` R57, `42_tail.md` R151). -/

namespace Sys2Proof.Machine

/-- A little-endian word looks at the first 8 bytes only, and a byte that is not there counts as zero. -/
theorem le64_congr {bs cs : List Byte} (h : ∀ i < 8, bs.getD i 0#8 = cs.getD i 0#8) : le64 bs = le64 cs := by
  refine BitVec.eq_of_getLsbD_eq fun i hi => ?_
  rw [le64_getLsbD bs hi, le64_getLsbD cs hi, h (i / 8) (by omega)]

theorem le64_take_eight (bs : List Byte) : le64 (bs.take 8) = le64 bs :=
  le64_congr fun i hi => by simp [List.getD_eq_getElem?_getD, hi]

/-- Zero bytes behind a list are what a read behind it answers already. -/
theorem getD_append_zeros (bs : List Byte) (n i : Nat) :
    (bs ++ List.replicate n 0#8).getD i 0#8 = bs.getD i 0#8 := by
  by_cases h : i < bs.length
  · rw [List.getD_append _ _ _ _ h]
  · have h : bs.length ≤ i := by omega
    rw [List.getD_append_right _ _ _ _ h, List.getD_eq_default _ _ h, List.getD_eq_getElem?_getD,
      List.getElem?_getD_replicate_default_eq]

theorem getD_drop (bs : List Byte) (n i : Nat) : (bs.drop n).getD i 0#8 = bs.getD (n + i) 0#8 := by
  simp [List.getD_eq_getElem?_getD]

/-- Bit `i` of the packed bytes: each listed offset gives its byte to its own byte position. -/
theorem packBytes_getLsbD (t : List Byte) (base : Nat) {i : Nat} (hi : i < 64) :
    ∀ {offsets : List Nat} (k : Word), offsets.Nodup → (∀ o ∈ offsets, base ≤ o) →
      (packBytes t base offsets k).getLsbD i =
        (k.getLsbD i ^^ (decide (base + i / 8 ∈ offsets) && (t.getD (base + i / 8) 0#8).getLsbD (i % 8)))
  | [], k, _, _ => by simp [packBytes]
  | o :: os, k, hnodup, hbase => by
    obtain ⟨hnew, hrest⟩ := List.nodup_cons.1 hnodup
    have hstep : packBytes t base (o :: os) k = packBytes t base os (k ^^^ placeByte (t.getD o 0#8) (o - base)) := rfl
    rw [hstep, packBytes_getLsbD t base hi _ hrest fun p hp => hbase p (List.mem_cons_of_mem _ hp),
      BitVec.getLsbD_xor, placeByte_getLsbD _ hi]
    have ho : base ≤ o := hbase o List.mem_cons_self
    rcases eq_or_ne (base + i / 8) o with rfl | h
    · simp [hnew]
    · have hpos : i / 8 ≠ o - base := by omega
      simp [h, hpos]

/-- XORing in the bytes from `base` on, in falling order, reads them as a little-endian word. -/
theorem packBytes_eq_le64 (t : List Byte) (base : Nat) :
    packBytes t base (List.range' base (t.length - base)).reverse 0#64 = le64 (t.drop base) := by
  refine BitVec.eq_of_getLsbD_eq fun i hi => ?_
  rw [packBytes_getLsbD t base hi _ (List.nodup_reverse.2 List.nodup_range')
    (fun o ho => (List.mem_range'_1.1 (List.mem_reverse.1 ho)).1), le64_getLsbD _ hi, getD_drop]
  by_cases h : base + i / 8 < t.length
  · have hmem : base + i / 8 ∈ List.range' base (t.length - base) := List.mem_range'_1.2 (by omega)
    simp [hmem]
  · rw [List.getD_eq_default _ _ (by omega)]
    simp

/-- TAILPACK is the little-endian reading of the tail in two words, for every length. -/
theorem tailPack_eq_le64 (t : List Byte) : tailPack t = (le64 t, le64 (t.drop 8)) := by
  have hk1 : packBytes t 0 (List.range t.length).reverse 0#64 = le64 t := by
    simpa [List.range_eq_range'] using packBytes_eq_le64 t 0
  simp only [tailPack, packBytes_eq_le64, hk1, le64_take_eight, xor64, BitVec.zero_xor, ite_self]

/-- Settles O21: both words are little-endian readings, and zero padding changes no byte of one. -/
theorem tailPackPlacesEveryByte : Obligations.TailPackPlacesEveryByte := by
  unfold Obligations.TailPackPlacesEveryByte
  intro t _ _
  rw [tailPack_eq_le64]
  refine ⟨fun i hi => le64_byte t hi, fun i hi => ?_, Prod.ext ?_ ?_⟩
  · rw [le64_byte _ hi, getD_drop]
  · rw [le64_take_eight]
    exact le64_congr fun i _ => (getD_append_zeros t _ i).symm
  · refine le64_congr fun i _ => ?_
    rw [getD_drop, getD_drop, getD_append_zeros]

end Sys2Proof.Machine

/-! PROOFS. The message space and the digest space: which command reads and writes which byte (`20_memory.md` R51 to R54, R68,
R74). -/

namespace Sys2Proof.Machine

/-! ### The message as a state change no command looks at outside its run -/

/-- The state with another message. -/
def withMessage (m : Memory) (s : State) : State := { s with msg := m }

@[simp] theorem withMessage_h1 (m : Memory) (s : State) : (withMessage m s).h1 = s.h1 := by cases s; rfl
@[simp] theorem withMessage_h2 (m : Memory) (s : State) : (withMessage m s).h2 = s.h2 := by cases s; rfl
@[simp] theorem withMessage_length (m : Memory) (s : State) : (withMessage m s).length = s.length := by cases s; rfl
@[simp] theorem withMessage_digest (m : Memory) (s : State) : (withMessage m s).digest = s.digest := by cases s; rfl

theorem setLanes_withMessage (p : Word × Word) (m : Memory) (s : State) :
    setLanes p (withMessage m s) = withMessage m (setLanes p s) := by cases s; rfl
theorem setLength_withMessage (n : Word) (m : Memory) (s : State) :
    setLength n (withMessage m s) = withMessage m (setLength n s) := by cases s; rfl
theorem setPhase_withMessage (p : Phase) (m : Memory) (s : State) :
    setPhase p (withMessage m s) = withMessage m (setPhase p s) := by cases s; rfl
theorem setDigest_withMessage (d m : Memory) (s : State) :
    setDigest d (withMessage m s) = withMessage m (setDigest d s) := by cases s; rfl

theorem openComputation_withMessage (m : Memory) (s : State) :
    openComputation (withMessage m s) = withMessage m (openComputation s) := by cases s; rfl

theorem absorbBlock_withMessage (b : List Byte) (m : Memory) (s : State) :
    absorbBlock b (withMessage m s) = withMessage m (absorbBlock b s) := by
  simp only [absorbBlock, setLength_withMessage, setLanes_withMessage, withMessage_h1, withMessage_h2,
    withMessage_length]

theorem absorbTail_withMessage (t : List Byte) (m : Memory) (s : State) :
    absorbTail t (withMessage m s) = withMessage m (absorbTail t s) := by
  simp only [absorbTail, setLength_withMessage, setLanes_withMessage, setPhase_withMessage, withMessage_h1,
    withMessage_h2, withMessage_length]

theorem finishComputation_withMessage (m : Memory) (s : State) :
    finishComputation (withMessage m s) = withMessage m (finishComputation s) := by
  simp only [finishComputation, memWriteDigest, setLanes_withMessage, setDigest_withMessage, setPhase_withMessage,
    withMessage_h1, withMessage_h2, withMessage_length, withMessage_digest]

/-- A message read looks at the bytes of its run only. -/
theorem memRead_withMessage {s : State} {m : Memory} {off : Word} {n : Nat}
    (h : ∀ a, off.toNat ≤ a ∧ a < off.toNat + n → Memory.read m a = Memory.read s.msg a) :
    memRead (withMessage m s) off n = memRead s off n := by
  have hrun : Memory.readBytes (withMessage m s).msg off.toNat n = Memory.readBytes s.msg off.toNat n :=
    readBytes_congr fun a hlo hhi => h a ⟨hlo, hhi⟩
  have hmlen : (withMessage m s).mlen = s.mlen := rfl
  rw [memRead, memRead, hrun, hmlen]

/-- R54: a message that agrees on the run a command reads passes through the command. -/
theorem exec_withMessage {i : Instr} {s : State} {m : Memory}
    (h : ∀ a, readsOffset i s a → Memory.read m a = Memory.read s.msg a) :
    exec i (withMessage m s) = mapNext (withMessage m) (exec i s) := by
  cases i with
  | init => exact execInit_mapNext (withMessage m) rfl (fun _ => rfl) rfl (openComputation_withMessage m s)
  | block =>
    exact execBlock_mapNext (withMessage m) rfl (fun _ => rfl) rfl (memRead_withMessage h) fun b =>
      absorbBlock_withMessage b m s
  | tail n =>
    exact execTail_mapNext (withMessage m) rfl (fun _ => rfl) rfl (memRead_withMessage h) fun t =>
      absorbTail_withMessage t m s
  | final => exact execFinal_mapNext (withMessage m) rfl (fun _ => rfl) rfl (finishComputation_withMessage m s)

/-! ### Runs of bytes, and the digest FINAL writes -/

/-- Every byte of a readable run is placed. -/
theorem read_isSome_of_readBytes {m : Memory} {a n x : Nat} {bs : List Byte} (h : Memory.readBytes m a n = some bs)
    (hlo : a ≤ x) (hhi : x < a + n) : (Memory.read m x).isSome = true := by
  obtain ⟨hlen, hread⟩ := readBytes_eq_some.1 h
  have hx := hread (x - a) (by omega)
  rw [Nat.add_sub_cancel' hlo] at hx
  simp [hx]

/-- A run of reads has no answer where one of its bytes is not placed. -/
theorem readBytes_eq_none {m : Memory} {a n x : Nat} (hlo : a ≤ x) (hhi : x < a + n) (hx : Memory.read m x = none) :
    Memory.readBytes m a n = none := by
  cases h : Memory.readBytes m a n with
  | none => rfl
  | some bs =>
    have hsome := read_isSome_of_readBytes h hlo hhi
    simp [hx] at hsome

/-- FINAL's 16 digest bytes read back as the encoding of the final lanes (R83, R171). -/
theorem finishComputation_readBytes (s : State) :
    Memory.readBytes (finishComputation s).digest digestBase 16 =
      some (digestOf (finalMix (s.h1, s.h2) s.length)) := by
  rw [finishComputation_digest, memWriteDigest]
  exact digestOf_length (finalMix (s.h1, s.h2) s.length) ▸ readBytes_writeBytes_same _ s.digest digestBase

/-! ### The checks that keep a read inside the message -/

theorem exec_block_eq (s : State) :
    exec .block s = runCommand (blockCheck s) (withMessageBytes 16 absorbBlock) s := rfl

theorem exec_tail_eq (n : Nat) (s : State) :
    exec (.tail n) s = runCommand (tailCheck n s) (withMessageBytes n absorbTail) s := rfl

/-- BLOCK's check in ABSORB where fewer than 16 bytes remain (R131, R234). -/
theorem blockCheck_framing {s : State} (hph : s.ph = .absorb) (hfew : s.mlen.toNat < s.length.toNat + 16) :
    blockCheck s = some .framing := by
  cases hc : blockCheck s with
  | none =>
    obtain ⟨_, hfit⟩ := blockCheck_none.1 hc
    omega
  | some c =>
    rcases blockCheck_some hc with ⟨_, hne⟩ | ⟨rfl, _⟩
    · exact absurd hph hne
    · rfl

/-- TAIL's check in ABSORB where other than its 1 to 15 bytes remain (R150, R234). -/
theorem tailCheck_framing {n : Nat} {s : State} (hph : s.ph = .absorb) (hmin : 1 ≤ n) (hmax : n ≤ 15)
    (hmisfit : s.length.toNat + n ≠ s.mlen.toNat) : tailCheck n s = some .framing := by
  cases hc : tailCheck n s with
  | none =>
    obtain ⟨_, _, _, hfit⟩ := tailCheck_none.1 hc
    exact absurd hfit hmisfit
  | some c =>
    rcases tailCheck_some hc with ⟨_, hne⟩ | ⟨_, _, hout⟩ | ⟨rfl, _⟩
    · exact absurd hph hne
    · omega
    · rfl

/-- A step stops at an unplaced message byte only. -/
theorem step_fault {s : State} {f : Fault} (h : step s = .fault f) : f = .messageByteAbsent := by
  rcases step_cases h with ⟨_, he⟩ | he | ⟨_, _, he⟩ | ⟨_, he⟩ | ⟨_, _, _, _, he⟩
  · cases he
  · cases he
  · exact (exec_fault he).1
  · cases he
  · cases he

/-- A command that reads a run inside the message with a byte not placed stops by name. -/
theorem withMessageBytes_absent {n : Nat} {k : List Byte → State → State} {s : State}
    (hfit : s.length.toNat + n ≤ s.mlen.toNat)
    (habsent : ∃ a, s.length.toNat ≤ a ∧ a < s.length.toNat + n ∧ Memory.read s.msg a = none) :
    withMessageBytes n k s = .fault .messageByteAbsent := by
  have hread : memRead s s.length n = .error .messageByteAbsent := by
    obtain ⟨a, hlo, hhi, hnone⟩ := habsent
    rw [memRead, if_pos hfit, readBytes_eq_none hlo hhi hnone]
  rw [withMessageBytes, hread]

/-! ### The settled statements -/

/-- Settles O38. -/
theorem spacesReached : Obligations.SpacesReached := by
  unfold Obligations.SpacesReached
  refine ⟨fun i s m h => exec_withMessage h, fun i s t hi h => exec_keeps_digest h hi, fun s t h ht => ?_⟩
  rcases execFinal_next h with ⟨hf, rfl⟩ | ⟨_, c, _, rfl⟩ | ⟨_, _, rfl⟩
  · simp [hf] at ht
  · simp at ht
  · exact ⟨fun a ha => read_isSome_of_readBytes (finishComputation_readBytes s) (Nat.zero_le a) (by simpa [digestBase]),
      fun a ha => finishComputation_read_outside s (.inr (by simpa [digestBase]))⟩

/-- Settles O39: a read outside the message is none of a step's stops, since the checks come first. -/
theorem noReadOutsideTheMessage : Obligations.NoReadOutsideTheMessage := by
  unfold Obligations.NoReadOutsideTheMessage
  refine ⟨fun s h => by injection step_fault h, fun s hf hph => ⟨fun hfew => ?_, fun n hmin hmax hmisfit => ?_⟩⟩
  · rw [exec_block_eq, blockCheck_framing hph hfew, runCommand_check hf, raiseFault]
  · rw [exec_tail_eq, tailCheck_framing hph hmin hmax hmisfit, runCommand_check hf, raiseFault]

/-- Settles O41: the checks pass, and the read meets the byte that is not placed. -/
theorem unplacedByteStops : Obligations.UnplacedByteStops := by
  unfold Obligations.UnplacedByteStops
  intro s n hf hph habsent
  refine ⟨?_, fun hmin hmax hfit => ?_⟩
  · rintro rfl hfit
    rw [exec_block_eq, blockCheck_none.2 ⟨hph, hfit⟩, runCommand_pass hf, withMessageBytes_absent hfit habsent]
  · rw [exec_tail_eq, tailCheck_none.2 ⟨hph, hmin, hmax, hfit⟩, runCommand_pass hf,
      withMessageBytes_absent hfit.le habsent]

end Sys2Proof.Machine

/-! PROOFS. The host's moves: what one that succeeds can change (`20_memory.md` R68, `45_host_interface.md` R215, R262). -/

namespace Sys2Proof.Machine

/-- A message is placed only while no computation is open, and only where the offsets reach all its bytes. -/
theorem placeMessageMove_ok {bytes : List Byte} {s t : State} (h : placeMessageMove bytes s = .ok t) :
    s.busyOut = false ∧ bytes.length < messageSpan ∧ t = withMessage (Memory.writeBytes [] 0 bytes) s := by
  unfold placeMessageMove at h
  split at h
  · cases h
  · next hbusy =>
    split at h
    · next hlen => cases h; exact ⟨by simpa using hbusy, hlen, rfl⟩
    · cases h

/-- The choice of the driving mode writes the driving mode only. -/
theorem chooseDriveMove_ok {d : Drive} {s t : State} (h : chooseDriveMove d s = .ok t) :
    t = { s with drive := d } := by
  unfold chooseDriveMove at h
  split at h
  · cases h
  · cases h; rfl

/-- Supplying words writes the words still to be fed only. -/
theorem supplyWordsMove_ok {ws : List Byte} {s t : State} (h : supplyWordsMove ws s = .ok t) :
    ∃ words, t = feed words s := by
  unfold supplyWordsMove at h
  split at h
  · cases h; exact ⟨_, rfl⟩
  · cases h

theorem SameEngine.refl (s : State) : SameEngine s s := by simp [SameEngine]

/-- A placed message is in canonical form. -/
theorem wf_placedMessage {bytes : List Byte} (h : bytes.length < messageSpan) :
    Memory.wf messageSpan (Memory.writeBytes [] 0 bytes) = true :=
  wf_writeBytes (by omega) (wf_nil _)

/-- What a host move can do (R68, R215): assert `rst`; or leave the engine alone, with the message unchanged or, while no
computation is open, another one in canonical form. -/
theorem hostMove_ok {m : HostMove} {s t : State} (h : hostMove m s = .ok t) :
    (m = .driveReset true ∧ t = resetEngine { s with rst := true }) ∨
      (SameEngine s t ∧ (t.msg = s.msg ∨ (s.busyOut = false ∧ Memory.wf messageSpan t.msg = true))) := by
  cases m with
  | driveReset level =>
    cases h
    cases level with
    | true => exact .inl ⟨rfl, rfl⟩
    | false => exact .inr ⟨.refl s, .inl rfl⟩
  | driveStart level => cases h; exact .inr ⟨.refl s, .inl rfl⟩
  | driveSeed v => cases h; exact .inr ⟨.refl s, .inl rfl⟩
  | driveNoSeed => cases h; exact .inr ⟨.refl s, .inl rfl⟩
  | driveLength n => cases h; exact .inr ⟨.refl s, .inl rfl⟩
  | placeMessage bytes =>
    obtain ⟨hbusy, hlen, rfl⟩ := placeMessageMove_ok h
    exact .inr ⟨.refl s, .inr ⟨hbusy, wf_placedMessage hlen⟩⟩
  | useSequencer => cases chooseDriveMove_ok h; exact .inr ⟨.refl s, .inl rfl⟩
  | useCommandPort => cases chooseDriveMove_ok h; exact .inr ⟨.refl s, .inl rfl⟩
  | supplyWords ws =>
    obtain ⟨words, rfl⟩ := supplyWordsMove_ok h
    exact .inr ⟨.refl s, .inl rfl⟩

/-- The invariant says nothing of what the host drives but the message's canonical form. -/
theorem State.Inv.of_sameEngine {s t : State} (h : s.Inv) (hsame : SameEngine s t)
    (hmsg : Memory.wf messageSpan t.msg = true) : t.Inv := by
  cases s
  cases t
  obtain ⟨rfl, rfl, rfl, rfl, rfl, rfl, rfl, rfl, rfl, rfl⟩ := hsame
  exact { h with message_wf := hmsg }

/-- The level of `rst` is none of the invariant's business. -/
theorem State.Inv.withReset {s : State} (h : s.Inv) (level : Bool) : State.Inv { s with rst := level } := { h with }

/-- Settles O45. -/
theorem hostMovesWriteNoRegister : Obligations.HostMovesWriteNoRegister := by
  unfold Obligations.HostMovesWriteNoRegister
  intro m s t h
  rcases hostMove_ok h with ⟨hm, rfl⟩ | ⟨hsame, hmsg⟩
  · exact ⟨fun hs => (hs.withReset true).resetEngine, fun _ => by simp, fun hne => absurd hm hne⟩
  · refine ⟨fun hs => hs.of_sameEngine hsame ?_, fun hbusy => ?_, fun _ => hsame⟩
    · rcases hmsg with hkept | ⟨_, hwf⟩
      · rw [hkept]; exact hs.message_wf
      · exact hwf
    · rcases hmsg with hkept | ⟨hidle, _⟩
      · exact hkept
      · simp [hbusy] at hidle

end Sys2Proof.Machine

/-! PROOFS. The command words and the program's bytes (`30_encoding.md` R85 to R93): which words decode to which command, and
that decoding and encoding undo each other. -/

namespace Sys2Proof.Machine

/-! ### The rows of the opcode map -/

theorem rowSelects_iff {pattern mask w : Byte} : rowSelects pattern mask w = true ↔ w &&& mask = pattern := by
  simp [rowSelects]

theorem and_fullMask (w : Byte) : w &&& 0xFF#8 = w := BitVec.and_allOnes

/-- The field `n` is what the low mask leaves of the word (R85, R86). -/
theorem tailField_eq_and (w : Byte) : tailField w = (w &&& 0x0F#8).toNat := by
  have hmask : w.toNat &&& 15 = w.toNat % 2 ^ 4 := Nat.and_two_pow_sub_one_eq_mod w.toNat 4
  simp [tailField, hmask]

theorem tailField_le (w : Byte) : tailField w ≤ 15 := by
  have h : (w.extractLsb' 0 4).toNat < 2 ^ 4 := BitVec.isLt _
  unfold tailField
  omega

/-- A word of TAIL's row is no word of another row. -/
theorem decode_tail {w : Byte} (h : w &&& 0xF0#8 = 0x30#8) : decode w = .command (.tail (tailField w)) := by
  have hne : ∀ {v : Byte}, v &&& 0xF0#8 ≠ 0x30#8 → w ≠ v := fun hv hw => hv (hw ▸ h)
  simp [decode, rowSelects_iff, and_fullMask, h, hne (v := 0x10#8) (by decide), hne (v := 0x20#8) (by decide)]

/-- A word that no row selects is illegal (R91). -/
theorem decode_illegal {w : Byte} (hinit : w ≠ 0x10#8) (hblock : w ≠ 0x20#8) (htail : w &&& 0xF0#8 ≠ 0x30#8)
    (hfinal : w ≠ 0x40#8) : decode w = .illegal := by
  simp [decode, rowSelects_iff, and_fullMask, hinit, hblock, htail, hfinal]

/-- The words that decode to a command, row by row (R90). -/
theorem decode_command {w : Byte} {i : Instr} (h : decode w = .command i) :
    (w = 0x10#8 ∧ i = .init) ∨ (w = 0x20#8 ∧ i = .block) ∨ (w &&& 0xF0#8 = 0x30#8 ∧ i = .tail (tailField w)) ∨
      (w = 0x40#8 ∧ i = .final) := by
  simp only [decode, rowSelects_iff, and_fullMask] at h
  split at h
  · next hw => cases h; exact .inl ⟨hw, rfl⟩
  · split at h
    · next hw => cases h; exact .inr (.inl ⟨hw, rfl⟩)
    · split at h
      · next hw => cases h; exact .inr (.inr (.inl ⟨hw, rfl⟩))
      · split at h
        · next hw => cases h; exact .inr (.inr (.inr ⟨hw, rfl⟩))
        · cases h

/-- TAIL 0 never passes its checks, and the phase is looked at first (R231, R235). -/
theorem tailCheck_zero (s : State) : tailCheck 0 s = some (if s.ph = .absorb then .tailLength else .sequence) := by
  by_cases hph : s.ph = .absorb
  · simp [tailCheck, hph]
  · simp [tailCheck, hph]

/-! ### One word there and back -/

/-- A well-formed command comes back from its word. -/
theorem decode_encode : ∀ {i : Instr}, i.wellFormed = true → decode (encode i) = .command i
  | .init, h => Laws.RoundTrip.init h
  | .block, h => Laws.RoundTrip.block h
  | .tail n, h => Laws.RoundTrip.tail n h
  | .final, h => Laws.RoundTrip.final h

/-- TAIL's word is its opcode above its length field. -/
theorem encode_tail_tailField {w : Byte} (h : w &&& 0xF0#8 = 0x30#8) : encode (.tail (tailField w)) = w := by
  have hop : w.extractLsb' 4 4 = 0x3#4 := by
    have hmask : (w &&& 0xF0#8).extractLsb' 4 4 = w.extractLsb' 4 4 := by
      rw [BitVec.extractLsb'_and]
      exact BitVec.and_allOnes
    rw [← hmask, h]
    rfl
  calc encode (.tail (tailField w)) = 0x3#4 ++ BitVec.ofNat 4 (tailField w) := rfl
    _ = w.extractLsb' 4 4 ++ w.extractLsb' 0 4 := by rw [hop, tailField, BitVec.ofNat_toNat, BitVec.setWidth_eq]
    _ = w.extractLsb' 0 8 := BitVec.extractLsb'_append_extractLsb'_eq_extractLsb' rfl
    _ = w := BitVec.extractLsb'_eq_self

/-- A word that decodes is the word of its command, which is well-formed. -/
theorem encode_of_decode {w : Byte} {i : Instr} (h : decode w = .command i) : encode i = w ∧ i.wellFormed = true := by
  rcases decode_command h with ⟨rfl, rfl⟩ | ⟨rfl, rfl⟩ | ⟨hw, rfl⟩ | ⟨rfl, rfl⟩
  · exact ⟨rfl, rfl⟩
  · exact ⟨rfl, rfl⟩
  · exact ⟨encode_tail_tailField hw, decide_eq_true (tailField_le w)⟩
  · exact ⟨rfl, rfl⟩

/-! ### A program there and back -/

/-- A program decodes exactly where its first word and the rest of it decode. -/
theorem decodeProgram_cons_eq_some {w : Byte} {ws : List Byte} {is : List Instr} :
    decodeProgram (w :: ws) = some is ↔
      ∃ j js, decode w = .command j ∧ decodeProgram ws = some js ∧ is = j :: js := by
  cases hw : decode w <;> cases hws : decodeProgram ws <;> simp [decodeProgram, hw, hws, eq_comm]

theorem encodeProgram_length (is : List Instr) : (encodeProgram is).length = is.length := List.length_map _

theorem decodeProgram_encodeProgram :
    ∀ {is : List Instr}, (∀ i ∈ is, i.wellFormed = true) → decodeProgram (encodeProgram is) = some is
  | [], _ => rfl
  | i :: is, h => by
    have ⟨hi, his⟩ := List.forall_mem_cons.1 h
    exact decodeProgram_cons_eq_some.2 ⟨i, is, decode_encode hi, decodeProgram_encodeProgram his, rfl⟩

theorem encodeProgram_of_decodeProgram :
    ∀ {ws : List Byte} {is : List Instr}, decodeProgram ws = some is →
      encodeProgram is = ws ∧ ∀ i ∈ is, i.wellFormed = true
  | [], is, h => by
    cases h
    exact ⟨rfl, fun _ hi => absurd hi List.not_mem_nil⟩
  | w :: ws, is, h => by
    obtain ⟨j, js, hw, hws, rfl⟩ := decodeProgram_cons_eq_some.1 h
    obtain ⟨hj, hwf⟩ := encode_of_decode hw
    obtain ⟨hjs, hwfs⟩ := encodeProgram_of_decodeProgram hws
    exact ⟨by rw [← hj, ← hjs]; rfl, List.forall_mem_cons.2 ⟨hwf, hwfs⟩⟩

/-! ### The settled statements -/

/-- Settles O3, by induction on the program in each direction. -/
theorem programBytesRoundTrip : Obligations.ProgramBytesRoundTrip := by
  unfold Obligations.ProgramBytesRoundTrip
  exact ⟨fun is h => ⟨decodeProgram_encodeProgram h, encodeProgram_length is⟩,
    fun ws is h => encodeProgram_of_decodeProgram h⟩

/-- Settles O1: the rows of the map are disjoint, and TAIL 0 fails its check in every phase. -/
theorem commandWordMap : Obligations.CommandWordMap := by
  unfold Obligations.CommandWordMap
  refine ⟨fun w => ?_, fun s hf => ?_⟩
  · rw [and_fullMask, ← tailField_eq_and]
    exact ⟨fun h => h ▸ rfl, fun h => h ▸ rfl, decode_tail, fun h => h ▸ rfl, decode_illegal⟩
  · have h : exec (.tail 0) s = runCommand (tailCheck 0 s) (withMessageBytes 0 absorbTail) s := exec_tail_eq 0 s
    rw [h, tailCheck_zero, runCommand_check hf]
    rfl

/-- Settles O2: each of the nine words falls under its row of the map, or under none. -/
theorem specWordsDecode : Obligations.SpecWordsDecode := by
  unfold Obligations.SpecWordsDecode
  exact ⟨rfl, rfl, decode_tail rfl, decode_tail rfl, decode_tail rfl, rfl,
    decode_illegal (by decide) (by decide) (by decide) (by decide),
    decode_illegal (by decide) (by decide) (by decide) (by decide),
    decode_illegal (by decide) (by decide) (by decide) (by decide)⟩

end Sys2Proof.Machine

/-! PROOFS. The byte order of a word and of the digest (`30_encoding.md` R80, R83). -/

namespace Sys2Proof.Machine

/-! ### A word and its bytes -/

/-- The bytes of a word, read back, are the word. -/
theorem le64_le64bytes (w : Word) : le64 (le64bytes w) = w := by
  refine BitVec.eq_of_getLsbD_eq fun i hi => ?_
  have hmod : i % 8 < 8 := Nat.mod_lt _ (by decide)
  rw [le64_getLsbD _ hi, le64bytes_getD w (by omega), BitVec.getLsbD_extractLsb', Nat.div_add_mod]
  simp [hmod]

/-- Eight bytes, read as a word, are the bytes of that word. -/
theorem le64bytes_le64 {bs : List Byte} (h : bs.length = 8) : le64bytes (le64 bs) = bs := by
  refine List.ext_getElem (by rw [le64bytes_length, h]) fun i hi hb => ?_
  have hi : i < 8 := by omega
  rw [← List.getD_eq_getElem _ 0#8, ← List.getD_eq_getElem _ 0#8, le64bytes_getD _ hi, le64_byte bs hi]

/-- LE64's number is the bytes read as digits of base 256, lowest first (R14). -/
theorem le64_toNat : ∀ {bs : List Byte}, bs.length ≤ 8 →
    (le64 bs).toNat = Nat.ofDigits 256 (bs.map BitVec.toNat)
  | [], _ => rfl
  | b :: bs, h => by
    have hlen : bs.length ≤ 7 := Nat.le_of_succ_le_succ h
    have ih : (le64 bs).toNat = Nat.ofDigits 256 (bs.map BitVec.toNat) := le64_toNat (by omega)
    have hlow : (le64 bs).toNat < 256 ^ 7 := by
      rw [ih]
      refine lt_of_lt_of_le (Nat.ofDigits_lt_base_pow_length (by decide) ?_) (Nat.pow_le_pow_right (by decide) ?_)
      · exact List.forall_mem_map.2 fun c _ => c.isLt
      · simpa using hlen
    have hb : b.toNat < 256 := b.isLt
    rw [List.map_cons, Nat.ofDigits_cons, ← ih, le64, BitVec.toNat_add, BitVec.toNat_mul, zext64, BitVec.toNat_setWidth]
    simp only [BitVec.toNat_ofNat, Nat.reduceMod, Nat.reducePow] at hlow ⊢
    omega

/-- The sum of a list's values weighted by their places. -/
theorem ofDigits_bytes_eq_sum {bs : List Byte} (h : bs.length = 8) :
    Nat.ofDigits 256 (bs.map BitVec.toNat) =
      ((List.range 8).map fun i => (bs.getD i 0#8).toNat * 2 ^ (8 * i)).sum := by
  rw [Nat.ofDigits_eq_sum_mapIdx]
  congr 1
  refine List.ext_getElem (by simp [h]) fun i hi _ => ?_
  have hi : i < bs.length := by simpa using hi
  simp [hi, pow_mul]

/-- Settles O58: bit by bit for the inverses, digit by digit for the number. -/
theorem wordFormat : Obligations.WordFormat := by
  unfold Obligations.WordFormat
  exact ⟨fun w => ⟨rfl, le64_le64bytes w⟩,
    fun b h => ⟨le64bytes_le64 h, (le64_toNat h.le).trans (ofDigits_bytes_eq_sum h)⟩⟩

/-! ### The digest -/

/-- The first half of the digest's bytes is `h1`, the second `h2`. -/
theorem digestOf_getD (lanes : Word × Word) {i : Nat} (hi : i < 8) :
    (digestOf lanes).getD i 0#8 = lanes.1.extractLsb' (8 * i) 8 ∧
      (digestOf lanes).getD (8 + i) 0#8 = lanes.2.extractLsb' (8 * i) 8 := by
  have hlen : (le64bytes lanes.1).length = 8 := le64bytes_length lanes.1
  refine ⟨?_, ?_⟩
  · rw [digestOf, List.getD_append _ _ _ _ (by omega), le64bytes_getD _ hi]
  · rw [digestOf, List.getD_append_right _ _ _ _ (by omega), hlen, Nat.add_sub_cancel_left, le64bytes_getD _ hi]

/-- FINAL's digest, one byte of it. -/
theorem finishComputation_read (s : State) {i : Nat} (hi : i < 16) :
    Memory.read (finishComputation s).digest i =
      some ((digestOf ((finishComputation s).h1, (finishComputation s).h2)).getD i 0#8) := by
  obtain ⟨hlen, hread⟩ := readBytes_eq_some.1 (finishComputation_readBytes s)
  have hi : i < (digestOf (finalMix (s.h1, s.h2) s.length)).length := by omega
  have hbyte := hread i hi
  rw [digestBase, Nat.zero_add, ← List.getD_eq_getElem _ 0#8] at hbyte
  rw [hbyte, finishComputation_h1, finishComputation_h2]

/-- Settles O24: a FINAL without a fault has completed, and the digest it stores reads back. -/
theorem digestBytesAreTheLanes : Obligations.DigestBytesAreTheLanes := by
  unfold Obligations.DigestBytesAreTheLanes
  intro s t hs h ht i hi
  cases exec_completes hs h ht with
  | final hopen hall =>
    obtain ⟨hlow, hhigh⟩ := digestOf_getD ((finishComputation s).h1, (finishComputation s).h2) hi
    rw [finishComputation_read s (by omega), finishComputation_read s (by omega), hlow, hhigh]
    exact ⟨rfl, rfl⟩

end Sys2Proof.Machine

/-! PROOFS. The assembler: what a parsed line stands for, and what the text of a line parses to (`30_encoding.md` R94, R95). -/

namespace Sys2Proof.Machine

/-! ### What a line stands for -/

theorem encodeProgram_blocks (q : Nat) : encodeProgram (List.replicate q .block) = List.replicate q 0x20#8 :=
  List.map_replicate

/-- `.msg` while no computation is open: the bytes are placed from offset 0, and `msg_len` is their number (R94). -/
theorem hostMoves_message {s : State} {bs : List Byte} (hbusy : s.busyOut = false) (hlen : bs.length < messageSpan) :
    hostMoves (AsmLine.moves (.message bs)) s =
      .ok { withMessage (Memory.writeBytes [] 0 bs) s with msgLen := BitVec.ofNat 64 bs.length } := by
  have hplace : placeMessageMove bs s = .ok (withMessage (Memory.writeBytes [] 0 bs) s) := by
    rw [placeMessageMove, hbusy, if_pos hlen]
    rfl
  simp only [AsmLine.moves, hostMoves, hostMove, hplace]

/-- Settles O59: each line's expansion is that of its definition, and its words come back by the round trip of programs. -/
theorem assemblerExpansions : Obligations.AssemblerExpansions := by
  unfold Obligations.AssemblerExpansions
  intro n
  refine ⟨fun _ => rfl, fun _ => rfl, ?_, encodeProgram_blocks, fun l hwf => ?_, rfl, fun _ => rfl, rfl, fun _ => rfl,
    fun _ _ => rfl, fun _ => rfl, fun s bs hbusy hlen => ?_⟩
  · simp [AsmLine.commands, schedule]
  · exact ⟨encodeProgram_length _, decodeProgram_encodeProgram hwf⟩
  · exact ⟨_, hostMoves_message hbusy hlen, Nat.mod_eq_of_lt hlen, readBytes_writeBytes_same bs [] 0, .refl s⟩

/-! ### The words of a line -/

/-- The character ends a word: a comment begins, or a blank stands there (R94; log entry 14). -/
def endsWord (c : Char) : Prop := c = ';' ∨ c = ' ' ∨ c = '\t'

theorem flushWord_of_ne_nil {current : List Char} (h : current ≠ []) : flushWord current = [current.reverse] := by
  simp [flushWord, h]

/-- A comment is dropped, wherever it begins. -/
theorem lineWords_comment (comment : List Char) :
    ∀ (text current : List Char), lineWords current (text ++ ';' :: comment) = lineWords current text
  | [], _ => by simp [lineWords]
  | c :: cs, current => by
    have ih := lineWords_comment comment cs
    simp only [List.cons_append, lineWords, ih]

/-- A blank ends the word being read. -/
theorem lineWords_space (current cs : List Char) :
    lineWords current (' ' :: cs) = flushWord current ++ lineWords [] cs := by
  simp [lineWords]

/-- Characters that end no word are gathered into the word being read. -/
theorem lineWords_append {cs : List Char} :
    ∀ {word : List Char} (current : List Char), (∀ c ∈ word, ¬ endsWord c) →
      lineWords current (word ++ cs) = lineWords (word.reverse ++ current) cs
  | [], _, _ => rfl
  | c :: word, current, h => by
    obtain ⟨hc, hword⟩ := List.forall_mem_cons.1 h
    obtain ⟨hcomment, hblank⟩ := not_or.1 hc
    simp only [List.cons_append, lineWords, if_neg hcomment, if_neg hblank]
    rw [lineWords_append (c :: current) hword, List.reverse_cons, List.append_assoc]
    rfl

/-- A word, ended by the line's end. -/
theorem lineWords_word {word : List Char} (hne : word ≠ []) (h : ∀ c ∈ word, ¬ endsWord c) :
    lineWords [] word = [word] := by
  have hread := lineWords_append (cs := []) [] h
  simpa [lineWords, flushWord_of_ne_nil (List.reverse_ne_nil_iff.2 hne)] using hread

/-- A word, ended by a blank. -/
theorem lineWords_word_space {word cs : List Char} (hne : word ≠ []) (h : ∀ c ∈ word, ¬ endsWord c) :
    lineWords [] (word ++ ' ' :: cs) = word :: lineWords [] cs := by
  rw [lineWords_append [] h, lineWords_space, List.append_nil, flushWord_of_ne_nil (List.reverse_ne_nil_iff.2 hne),
    List.reverse_reverse, List.singleton_append]

/-! ### Decimal operands -/

/-- A digit's character ends no word, and has the digit's value. -/
theorem decimalDigit_spec (d : Fin 10) :
    ¬ endsWord (Char.ofNat (48 + d.val)) ∧ digitValue (Char.ofNat (48 + d.val)) = some d.val := by
  unfold endsWord
  revert d
  decide

theorem decimalText_endsNoWord (ds : List (Fin 10)) : ∀ c ∈ decimalText ds, ¬ endsWord c :=
  List.forall_mem_map.2 fun d _ => (decimalDigit_spec d).1

theorem decimalText_ne_nil {ds : List (Fin 10)} (h : ds ≠ []) : decimalText ds ≠ [] := mt List.map_eq_nil_iff.1 h

/-- Digit by digit, the text's number is the digits' number. -/
theorem numberValue_decimalText :
    ∀ (ds : List (Fin 10)) (acc : Nat),
      numberValue 10 acc (decimalText ds) = some (ds.foldl (fun n d => n * 10 + d.val) acc)
  | [], _ => rfl
  | d :: ds, acc => by
    have hdigit := (decimalDigit_spec d).2
    have ih := numberValue_decimalText ds (acc * 10 + d.val)
    rw [decimalText] at ih
    simp only [decimalText, List.map_cons, numberValue, hdigit, if_pos d.isLt, ih, List.foldl_cons]

theorem decimalValue_decimalText : ∀ {ds : List (Fin 10)}, ds ≠ [] →
    decimalValue (decimalText ds) = some (decimalNumber ds)
  | d :: ds, _ => numberValue_decimalText (d :: ds) 0

/-- A word, a blank and a decimal operand are a line of two words. -/
theorem parseLine_operand {head : List Char} {ds : List (Fin 10)} (hne : head ≠ []) (hhead : ∀ c ∈ head, ¬ endsWord c)
    (hds : ds ≠ []) : parseLine (head ++ ' ' :: decimalText ds) = lineOfWords [head, decimalText ds] := by
  rw [parseLine, lineWords_word_space hne hhead, lineWords_word (decimalText_ne_nil hds) (decimalText_endsNoWord ds)]

/-! ### Hex bytes -/

/-- A hex digit's character ends no word, and has the digit's value. -/
theorem hexDigitText_spec {d : Nat} (h : d < 16) :
    ¬ endsWord (hexDigitText d) ∧ digitValue (hexDigitText d) = some d := by
  have all : ∀ d : Fin 16, ¬ endsWord (hexDigitText d) ∧ digitValue (hexDigitText d) = some d.val := by
    unfold endsWord
    decide
  exact all ⟨d, h⟩

/-- The two hex digits of a byte. -/
def byteText (b : Byte) : List Char := [hexDigitText (b.toNat / 16), hexDigitText (b.toNat % 16)]

theorem hexText_cons (b : Byte) (bs : List Byte) : hexText (b :: bs) = ' ' :: (byteText b ++ hexText bs) := rfl

theorem byteText_endsNoWord (b : Byte) : ∀ c ∈ byteText b, ¬ endsWord c := by
  have hhigh : b.toNat / 16 < 16 := by omega
  have hlow : b.toNat % 16 < 16 := by omega
  simp [byteText, hexDigitText_spec hhigh, hexDigitText_spec hlow]

/-- A byte's two digits denote the byte. -/
theorem hexByte_byteText (b : Byte) : hexByte (byteText b) = some b := by
  have hhigh : b.toNat / 16 < 16 := by omega
  have hlow : b.toNat % 16 < 16 := by omega
  have hnumber : numberValue 16 0 (byteText b) = some (b.toNat / 16 * 16 + b.toNat % 16) := by
    simp [byteText, numberValue, hexDigitText_spec hhigh, hexDigitText_spec hlow, hhigh, hlow]
  have hbyte : BitVec.ofNat 8 (b.toNat / 16 * 16 + b.toNat % 16) = b := by
    rw [Nat.div_add_mod', BitVec.ofNat_toNat, BitVec.setWidth_eq]
  calc hexByte (byteText b) = (numberValue 16 0 (byteText b)).map (BitVec.ofNat 8) := rfl
    _ = some b := by rw [hnumber, Option.map_some, hbyte]

theorem hexBytes_byteTexts : ∀ bs : List Byte, hexBytes (bs.map byteText) = some bs
  | [] => rfl
  | b :: bs => by simp only [List.map_cons, hexBytes, hexByte_byteText, hexBytes_byteTexts bs]

/-- Each byte behind a word is a word of its own. -/
theorem lineWords_hexText : ∀ (bs : List Byte) {current : List Char}, current ≠ [] →
    lineWords current (hexText bs) = current.reverse :: bs.map byteText
  | [], _, hne => flushWord_of_ne_nil hne
  | b :: bs, current, hne => by
    rw [hexText_cons, lineWords_space, flushWord_of_ne_nil hne, lineWords_append [] (byteText_endsNoWord b),
      lineWords_hexText bs (by simp [byteText])]
    simp

/-- `.msg` and its bytes are the words of the line. -/
theorem parseLine_message (bs : List Byte) : parseLine (['.', 'm', 's', 'g'] ++ hexText bs) = some (.message bs) := by
  have hhead : ∀ c ∈ ['.', 'm', 's', 'g'], ¬ endsWord c := by simp [endsWord]
  rw [parseLine, lineWords_append [] hhead, lineWords_hexText bs (by simp)]
  simp [lineOfWords, hexBytes_byteTexts]

/-! ### The lines with an operand -/

theorem lineOfWords_tail {operand : List Char} {n : Nat} (h : decimalValue operand = some n) :
    lineOfWords [['T', 'A', 'I', 'L'], operand] = if n ≤ 15 then some (.command (.tail n)) else none := by
  simp [lineOfWords, h]

theorem lineOfWords_blocks {operand : List Char} {n : Nat} (h : decimalValue operand = some n) :
    lineOfWords [['B', 'L', 'O', 'C', 'K', 'S'], operand] = some (.blocks n) := by
  simp [lineOfWords, h]

theorem lineOfWords_seed {operand : List Char} {n : Nat} (h : decimalValue operand = some n) :
    lineOfWords [['.', 's', 'e', 'e', 'd'], operand] =
      if n < 2 ^ 32 then some (.seed (BitVec.ofNat 32 n)) else none := by
  simp [lineOfWords, h]

/-- Settles O60: the words of a line are read off its text, and the operand's value off its digits. -/
theorem assemblerText : Obligations.AssemblerText := by
  unfold Obligations.AssemblerText
  refine ⟨fun text comment => ?_, rfl, rfl, rfl, rfl, rfl, rfl, fun ds hds => ?_, parseLine_message⟩
  · rw [parseLine, parseLine, lineWords_comment]
  · have hvalue := decimalValue_decimalText hds
    refine ⟨?_, ?_, ?_⟩
    · exact (parseLine_operand (by simp) (by simp [endsWord]) hds).trans (lineOfWords_tail hvalue)
    · exact (parseLine_operand (by simp) (by simp [endsWord]) hds).trans (lineOfWords_blocks hvalue)
    · exact (parseLine_operand (by simp) (by simp [endsWord]) hds).trans (lineOfWords_seed hvalue)

end Sys2Proof.Machine

/-! PROOFS. The datapath units as functions on 64-bit words: the rotations and the shift, and the bijections the mixers, the
round-constant adder and the avalanche unit are composed of (`40_datapath.md` R101 to R105, R110 to R112, R115). -/

namespace Sys2Proof.Machine

/-! ### The rotations and the shift -/

/-- Bit `i` goes to bit `(i + r) mod 64`. -/
theorem rotl64_getLsbD_add (a : Word) {r i : Nat} (hr : r < 64) (hi : i < 64) :
    (rotl64 a r).getLsbD ((i + r) % 64) = a.getLsbD i := by
  rw [rotl64_getLsbD a hr (Nat.mod_lt _ (by decide))]
  by_cases hwrap : i + r < 64
  · rw [Nat.mod_eq_of_lt hwrap, if_neg (by omega), Nat.add_sub_cancel]
  · rw [if_pos (by omega), show 64 - r + (i + r) % 64 = i by omega]

/-- Rotating on to 64 positions brings every bit back to its place. -/
theorem rotl64_rotl64_sub (a : Word) {r : Nat} (h0 : 0 < r) (hr : r < 64) : rotl64 (rotl64 a r) (64 - r) = a := by
  refine BitVec.eq_of_getLsbD_eq fun i hi => ?_
  have hback : i = ((i + r) % 64 + (64 - r)) % 64 := by omega
  conv_lhs => rw [hback]
  rw [rotl64_getLsbD_add _ (by omega) (Nat.mod_lt _ (by decide)), rotl64_getLsbD_add a hr hi]

theorem rotl64_bijective {r : Nat} (h0 : 0 < r) (hr : r < 64) : Function.Bijective (rotl64 · r) := by
  refine Function.bijective_iff_has_inverse.2
    ⟨(rotl64 · (64 - r)), fun a => rotl64_rotl64_sub a h0 hr, fun a => ?_⟩
  have h := rotl64_rotl64_sub a (r := 64 - r) (by omega) (by omega)
  rwa [Nat.sub_sub_self hr.le] at h

/-- The two parts of a rotation share no bit, so their union is their sum. -/
theorem rotl64_toNat (a : Word) {r : Nat} (hr : r < 64) :
    (rotl64 a r).toNat = a.toNat * 2 ^ r % 2 ^ 64 + a.toNat / 2 ^ (64 - r) := by
  have hdisjoint : a <<< r &&& a >>> (64 - r) = 0#64 := by
    refine BitVec.eq_of_getLsbD_eq fun i hi => ?_
    by_cases hlow : i < r
    · simp [hlow]
    · simp [BitVec.getLsbD_of_ge a (64 - r + i) (by omega)]
  rw [rotl64, ← BitVec.add_eq_or_of_and_eq_zero _ _ hdisjoint, BitVec.toNat_add_of_and_eq_zero hdisjoint,
    BitVec.toNat_shiftLeft, BitVec.toNat_ushiftRight, Nat.shiftLeft_eq, Nat.shiftRight_eq_div_pow]

/-- A word whose bits are all equal is fixed by every rotation. -/
theorem rotl64_of_equal_bits {a : Word} {b : Bool} (h : ∀ i < 64, a.getLsbD i = b) {r : Nat} (hr : r < 64) :
    rotl64 a r = a := by
  refine BitVec.eq_of_getLsbD_eq fun i hi => ?_
  rw [rotl64_getLsbD a hr hi, h i hi]
  split
  · exact h _ (by omega)
  · exact h _ (by omega)

theorem rotl64_zero {r : Nat} (hr : r < 64) : rotl64 0#64 r = 0#64 :=
  rotl64_of_equal_bits (fun _ _ => BitVec.getLsbD_zero) hr

theorem rotl64_allOnes {r : Nat} (hr : r < 64) : rotl64 (BitVec.allOnes 64) r = BitVec.allOnes 64 :=
  rotl64_of_equal_bits (fun _ hi => BitVec.getLsbD_allOnes.trans (decide_eq_true hi)) hr

theorem shr64_toNat (a : Word) (r : Nat) : (shr64 a r).toNat = a.toNat / 2 ^ r := by
  rw [shr64, BitVec.toNat_ushiftRight, Nat.shiftRight_eq_div_pow]

/-! ### Bijections on 64-bit words -/

/-- The words are finitely many. -/
theorem bijective_of_injective {f : Word → Word} (h : Function.Injective f) : Function.Bijective f := by
  have : Finite Word := Finite.of_injective BitVec.toFin fun _ _ => BitVec.eq_of_toFin_eq
  exact Finite.injective_iff_bijective.1 h

/-- Multiplication by an odd constant is a bijection (R101): an odd number has no factor in common with `2^64`. -/
theorem mul64_bijective {c : Word} (hc : Odd c.toNat) : Function.Bijective (mul64 · c) := by
  refine bijective_of_injective fun a b h => BitVec.eq_of_toNat_eq ?_
  have hcoprime : Nat.Coprime (2 ^ 64) c.toNat := (Nat.coprime_two_left.2 hc).pow_left 64
  have hmod : a.toNat * c.toNat ≡ b.toNat * c.toNat [MOD 2 ^ 64] := by
    simpa only [Nat.ModEq, mul64, BitVec.toNat_mul] using congrArg BitVec.toNat h
  exact (hmod.cancel_right_of_coprime hcoprime).eq_of_lt_of_lt a.isLt b.isLt

theorem add64_bijective (c : Word) : Function.Bijective (add64 · c) :=
  (Equiv.addRight c).bijective

/-- The stage undoes itself: the part shifted twice by 33 is empty. -/
theorem avStage_avStage (x : Word) : avStage (avStage x) = x := by
  have hempty : x >>> 33 >>> 33 = 0#64 := by
    rw [← BitVec.shiftRight_add, BitVec.ushiftRight_eq_zero (by decide)]
  simp only [avStage, xor64, shr64, BitVec.ushiftRight_xor_distrib, hempty]
  rw [BitVec.xor_zero, BitVec.xor_assoc, BitVec.xor_self, BitVec.xor_zero]

theorem avStage_bijective : Function.Bijective avStage :=
  Function.Involutive.bijective avStage_avStage

/-! ### The units -/

/-- A key mixer's shape, a rotation between two multiplications by odd constants, is a bijection. -/
theorem mul_rotl_mul_bijective {c d : Word} {r : Nat} (hc : Odd c.toNat) (hd : Odd d.toNat) (h0 : 0 < r) (hr : r < 64) :
    Function.Bijective fun k => mul64 (rotl64 (mul64 k c) r) d :=
  (mul64_bijective hd).comp ((rotl64_bijective h0 hr).comp (mul64_bijective hc))

theorem odd_c1 : Odd Config.c1.toNat := by decide

theorem odd_c2 : Odd Config.c2.toNat := by decide

theorem mixKey1_bijective : Function.Bijective mixKey1 :=
  mul_rotl_mul_bijective odd_c1 odd_c2 (by decide) (by decide)

theorem mixKey2_bijective : Function.Bijective mixKey2 :=
  mul_rotl_mul_bijective odd_c2 odd_c1 (by decide) (by decide)

theorem mixKey1_zero : mixKey1 0#64 = 0#64 := by decide

theorem mul5add_toNat (h : Word) (c : BitVec 32) :
    (mul5add h c).toNat = (h.toNat * 5 + c.toNat) % 2 ^ 64 := by
  have hc : c.toNat < 2 ^ 32 := c.isLt
  have hzext : (zext64 c).toNat = c.toNat := by
    rw [zext64, BitVec.toNat_setWidth, Nat.mod_eq_of_lt (by omega)]
  rw [mul5add, add64, mul64, BitVec.toNat_add, BitVec.toNat_mul, hzext, Nat.mod_add_mod]
  rfl

theorem mul5add_bijective (c : BitVec 32) : Function.Bijective (mul5add · c) :=
  (add64_bijective (zext64 c)).comp (mul64_bijective (c := Config.laneMul) (by decide))

theorem avalanche_bijective : Function.Bijective avalanche :=
  avStage_bijective.comp ((mul64_bijective (c := Config.fm2) (by decide)).comp
    (avStage_bijective.comp ((mul64_bijective (c := Config.fm1) (by decide)).comp avStage_bijective)))

theorem avalanche_zero : avalanche 0#64 = 0#64 := by decide

/-! ### The statements -/

/-- Settles O52: the bit map gives the inverse, and the value is the sum of the two disjoint parts. -/
theorem leftRotation : Obligations.LeftRotation := by
  unfold Obligations.LeftRotation
  intro a r h0 hr
  exact ⟨rotl64_toNat a hr, fun i hi => rotl64_getLsbD_add a hr hi, rotl64_rotl64_sub a h0 hr,
    rotl64_zero hr, rotl64_allOnes hr⟩

/-- Settles O55: each mixer is a composition of bijections. -/
theorem keyMixers : Obligations.KeyMixers := by
  unfold Obligations.KeyMixers
  exact ⟨fun k => ⟨rfl, rfl⟩, mixKey1_zero, mixKey2_zero, mixKey1_bijective, mixKey2_bijective⟩

/-- Settles O56: 5 is odd, and adding a constant is a bijection. -/
theorem roundConstantAdder : Obligations.RoundConstantAdder := by
  unfold Obligations.RoundConstantAdder
  exact fun c => ⟨fun h => mul5add_toNat h c, mul5add_bijective c⟩

/-- Settles O57: the stages are bijections, and 0 goes to 0, so nothing else does. -/
theorem avalancheUnit : Obligations.AvalancheUnit := by
  unfold Obligations.AvalancheUnit
  refine ⟨fun k => rfl, avalanche_bijective, fun k => ?_⟩
  calc avalanche k = 0#64 ↔ avalanche k = avalanche 0#64 := by rw [avalanche_zero]
    _ ↔ k = 0#64 := avalanche_bijective.injective.eq_iff

/-- Settles O53: the bit map of the left rotation by `64 - r`. -/
theorem rightRotation : Obligations.RightRotation := by
  unfold Obligations.RightRotation
  refine fun a r h0 hr => ⟨rfl, fun i hi => ?_⟩
  rw [rotr64, Nat.add_sub_assoc hr.le i]
  exact rotl64_getLsbD_add a (by omega) hi

/-- Settles O54. -/
theorem rightShift : Obligations.RightShift := by
  unfold Obligations.RightShift
  refine fun a r => ⟨shr64_toNat a r, ?_⟩
  have ha : a.toNat < 2 ^ 64 := a.isLt
  rw [shr64_toNat]
  omega

end Sys2Proof.Machine

/-! PROOFS. INIT and BLOCK (`41_init_block.md`): the state after each, with the lanes' rules written out. -/

namespace Sys2Proof.Machine

/-! ### INIT's next state -/

/-- R130: the state INIT opens a computation with. -/
theorem openComputation_eq (s : State) :
    openComputation s = { s with
      seed := seedOperand s.seedPresent s.seedIn, mlen := s.msgLen
      h1 := zext64 (seedOperand s.seedPresent s.seedIn), h2 := 0#64, length := 0#64, ph := .absorb } := by
  cases s; rfl

/-! ### BLOCK's lanes and next state -/

/-- R113: lane 1's rule with its constants. -/
theorem lane1_eq (h1 h2 k : Word) :
    lane1 h1 h2 k = (rotl64 (h1 ^^^ rotl64 (k * 0x87c37b91114253d5#64) 31 * 0x4cf5ad432745937f#64) 27 + h2) * 5#64
      + 0x52dce729#64 := by
  have hra1 : zext64 Config.ra1 = 0x52dce729#64 := by decide
  simp only [lane1, mul5add, mixKey1, add64, mul64, xor64, hra1, Config.c1, Config.c2, Config.laneMul]

/-- R114: lane 2's rule with its constants. -/
theorem lane2_eq (h1new h2 k : Word) :
    lane2 h1new h2 k = (rotl64 (h2 ^^^ rotl64 (k * 0x4cf5ad432745937f#64) 31 * 0x87c37b91114253d5#64) 33 + h1new) * 5#64
      + 0x38495ab5#64 := by
  have hra2 : zext64 Config.ra2 = 0x38495ab5#64 := by decide
  simp only [lane2, mul5add, mixKey2, add64, mul64, xor64, hra2, Config.c1, Config.c2, Config.laneMul]

/-- R56, R81: a block's second word reads 8 bytes, and a little-endian word reads no more. -/
theorem blockWords_eq (b : List Byte) : blockWords b = (le64 (b.take 8), le64 (b.drop 8)) := by
  rw [blockWords, le64_take_eight (b.drop 8)]

/-- R131: the state after BLOCK, lane 2 from the new lane 1. -/
theorem absorbBlock_eq (b : List Byte) (s : State) :
    absorbBlock b s = { s with
      length := s.length + 16#64
      h1 := lane1 s.h1 s.h2 (le64 (b.take 8))
      h2 := lane2 (lane1 s.h1 s.h2 (le64 (b.take 8))) s.h2 (le64 (b.drop 8)) } := by
  rw [absorbBlock, blockWords_eq]
  rfl

/-- BLOCK whose checks and read succeed absorbs the bytes read. -/
theorem exec_block_of_read {s : State} {b : List Byte} (hf : s.flt = false) (hph : s.ph = .absorb)
    (hfit : s.length.toNat + 16 ≤ s.mlen.toNat) (hread : Memory.readBytes s.msg s.length.toNat 16 = some b) :
    exec .block s = .next (absorbBlock b s) := by
  have hrun : memRead s s.length 16 = .ok b := memRead_ok.2 ⟨hfit, hread⟩
  rw [exec_block_eq, blockCheck_none.2 ⟨hph, hfit⟩, runCommand_pass hf, withMessageBytes, hrun]

/-! ### The settled statements -/

/-- Settles O13: the checks pass, and the state opened is the one written out. -/
theorem initCompletes : Obligations.InitCompletes := by
  unfold Obligations.InitCompletes
  intro s hf hph hlen
  have hcheck : initCheck s = none := initCheck_none.2 ⟨Phase.isOpen_eq_false_iff.2 hph, hlen⟩
  rw [exec_init_of_check hf hcheck, openComputation_eq]
  rfl

/-- Settles O18: BLOCK absorbs the bytes read, and the lanes' rules are the ones written out. -/
theorem blockCompletes : Obligations.BlockCompletes := by
  unfold Obligations.BlockCompletes
  intro s b hf hph hfit hread k1 k2 x y
  have hx : lane1 s.h1 s.h2 k1 = x := lane1_eq s.h1 s.h2 k1
  have hy : lane2 x s.h2 k2 = y := lane2_eq x s.h2 k2
  rw [exec_block_of_read hf hph hfit hread, absorbBlock_eq, hx, hy]

/-- Settles O19: BLOCK is neither INIT nor FINAL, a fault writes no phase, and BLOCK that completes keeps it. -/
theorem blockFrame : Obligations.BlockFrame := by
  unfold Obligations.BlockFrame
  intro s t h
  obtain ⟨hin, hcause⟩ := exec_frame h
  refine ⟨exec_keeps_seed h (by simp), exec_keeps_mlen h (by simp), exec_keeps State.ph h (by simp) fun hc => ?_,
    fun a => by rw [exec_keeps_digest h (by simp)], hin, hcause⟩
  cases hc with
  | block b _ _ _ => exact absorbBlock_ph b s

end Sys2Proof.Machine

/-! PROOFS. TAIL (`42_tail.md`): the state after it, with the key mixes written out. -/

namespace Sys2Proof.Machine

/-- R150: the tail's mix with its constants, each lane by its own key and no lane round. -/
theorem tailMix_eq (lanes keys : Word × Word) :
    tailMix lanes keys =
      (lanes.1 ^^^ rotl64 (keys.1 * 0x87c37b91114253d5#64) 31 * 0x4cf5ad432745937f#64,
        lanes.2 ^^^ rotl64 (keys.2 * 0x4cf5ad432745937f#64) 31 * 0x87c37b91114253d5#64) := by
  simp only [tailMix, mixKey1, mixKey2, mul64, xor64, Config.c1, Config.c2]

/-- R150: the state after TAIL. -/
theorem absorbTail_eq (t : List Byte) (s : State) :
    absorbTail t s = { s with
      length := s.length + BitVec.ofNat 64 t.length
      h1 := s.h1 ^^^ rotl64 ((tailPack t).1 * 0x87c37b91114253d5#64) 31 * 0x4cf5ad432745937f#64
      h2 := s.h2 ^^^ rotl64 ((tailPack t).2 * 0x4cf5ad432745937f#64) 31 * 0x87c37b91114253d5#64
      ph := .tailed } := by
  rw [absorbTail, tailMix_eq]
  rfl

/-- TAIL whose checks and read succeed absorbs the bytes read. -/
theorem exec_tail_of_read {s : State} {n : Nat} {b : List Byte} (hf : s.flt = false) (hph : s.ph = .absorb)
    (hmin : 1 ≤ n) (hmax : n ≤ 15) (hfit : s.length.toNat + n = s.mlen.toNat)
    (hread : Memory.readBytes s.msg s.length.toNat n = some b) :
    exec (.tail n) s = .next (absorbTail b s) := by
  have hrun : memRead s s.length n = .ok b := memRead_ok.2 ⟨hfit.le, hread⟩
  rw [exec_tail_eq, tailCheck_none.2 ⟨hph, hmin, hmax, hfit⟩, runCommand_pass hf, withMessageBytes, hrun]

/-- Settles O20: TAIL absorbs the bytes read, as many as it names, and the key mixes are the ones written out. -/
theorem tailCompletes : Obligations.TailCompletes := by
  unfold Obligations.TailCompletes
  intro s n b hf hph hmin hmax hfit hread
  rw [exec_tail_of_read hf hph hmin hmax hfit hread, absorbTail_eq, readBytes_length hread]

end Sys2Proof.Machine

/-! PROOFS. FINAL (`43_final.md`): the state after it with the final lanes written out, the reads of the digest, and the digest
of the empty message. -/

namespace Sys2Proof.Machine

/-! ### FINAL's next state -/

/-- R170, R171: the state after FINAL, with a name for the final lanes so that no unfolding evaluates them. -/
theorem finishComputation_eq {s : State} {lanes : Word × Word} (h : finalMix (s.h1, s.h2) s.length = lanes) :
    finishComputation s = { s with
      h1 := lanes.1, h2 := lanes.2, ph := .done, digest := Memory.writeBytes s.digest 0 (digestOf lanes) } := by
  simp only [finishComputation, h, memWriteDigest, digestBase, setPhase, setDigest, setLanes]

/-- FINAL whose checks pass finishes the computation. -/
theorem exec_final_of_check {s : State} (hf : s.flt = false) (hc : finalCheck s = none) :
    exec .final s = .next (finishComputation s) := by
  have h : runCommand (finalCheck s) (fun s => .next (finishComputation s)) s = .next (finishComputation s) := by
    rw [hc, runCommand_pass hf]
  exact h

/-- Settles O23: the checks pass, and the final lanes are the ones written out. -/
theorem finalCompletes : Obligations.FinalCompletes := by
  unfold Obligations.FinalCompletes
  intro s hf hph hall b1 b2 f1 f2
  have hlanes : finalMix (s.h1, s.h2) s.length = (f1, f2) := rfl
  rw [exec_final_of_check hf (finalCheck_none.2 ⟨Phase.isOpen_iff.2 hph, hall⟩), finishComputation_eq hlanes, digestOf]

/-! ### Reading the digest -/

/-- R172, R214: at the end of a run the read answers the encoding of the lanes. -/
theorem readDigest_of_endOfRun {s : State} (hs : s.Inv) (hend : s.EndOfRun) :
    readDigest s = .ok (digestOf (s.h1, s.h2)) := by
  obtain ⟨hph, hf⟩ := hend
  rw [readDigest, if_pos (State.doneOut_iff.2 ⟨hph, hf⟩), hs.done_digest hph]

/-- R172, U9: anywhere else the read is refused. -/
theorem readDigest_of_not_endOfRun {s : State} (hend : ¬ s.EndOfRun) : readDigest s = .error .digestNotValid := by
  rw [readDigest, if_neg (mt State.doneOut_iff.1 hend)]

/-- Settles O26: the invariant keeps the digest space the encoding of the lanes. -/
theorem digestReadableExactlyWhenDone : Obligations.DigestReadableExactlyWhenDone := by
  unfold Obligations.DigestReadableExactlyWhenDone
  exact fun s hs => ⟨fun hend => ⟨readDigest_of_endOfRun hs hend, digestOf_length (s.h1, s.h2)⟩,
    readDigest_of_not_endOfRun⟩

/-! ### How long the digest stays -/

/-- In DONE the one command that completes is INIT (R172, R233). -/
theorem Completes.eq_openComputation_of_done {i : Instr} {s t : State} (h : Completes i s t) (hph : s.ph = .done) :
    t = openComputation s := by
  cases h with
  | init => rfl
  | block _ habsorb => simp [hph] at habsorb
  | tail _ habsorb => simp [hph] at habsorb
  | final hopen => simp [hph, Phase.isOpen] at hopen

/-- At the end of a run a command takes a fault or opens the next computation. -/
theorem exec_of_endOfRun {i : Instr} {s t : State} (hend : s.EndOfRun) (h : exec i s = .next t) :
    (t.ph = .absorb ∧ t.flt = false) ∨ t.flt = true := by
  obtain ⟨hph, hf⟩ := hend
  rcases exec_next h with ⟨hflt, _⟩ | ⟨_, c, _, rfl⟩ | ⟨_, hc⟩
  · simp [hf] at hflt
  · exact .inr (by simp)
  · rw [hc.eq_openComputation_of_done hph]
    exact .inl ⟨by simp, by simpa using hf⟩

/-- Settles O28: by the cases of a step; where no command runs and no fault is taken, only the driving mode's words change. -/
theorem digestStaysUntilInitOrReset : Obligations.DigestStaysUntilInitOrReset := by
  unfold Obligations.DigestStaysUntilInitOrReset
  intro s t hend hrst h
  rcases step_cases h with ⟨hreset, _⟩ | he | ⟨d, i, he⟩ | ⟨d, he⟩ | ⟨d, c, _, _, he⟩
  · simp [hrst] at hreset
  · cases he
  · exact .inr (exec_of_endOfRun (s := { s with drive := d }) hend he)
  · cases he; exact .inl ⟨hend, rfl⟩
  · cases he; exact .inr (.inr (by simp))

/-! ### The digest of the empty message -/

/-- With no byte consumed and lane 2 zero, FIN gives twice and three times lane 1's avalanche (R170, R173). -/
theorem finalMix_zero (x : Word) : finalMix (x, 0#64) 0#64 = (2#64 * avalanche x, 3#64 * avalanche x) := by
  have htwo : avalanche x + avalanche x = 2#64 * avalanche x := by bv_omega
  have hthree : avalanche x + 2#64 * avalanche x = 3#64 * avalanche x := by bv_omega
  simp only [finalMix, xor64, add64, BitVec.xor_zero, BitVec.add_zero, BitVec.zero_add, htwo, hthree]

/-- The empty message has no block and no tail: its lanes are the seed's, finalised. -/
theorem computeLanes_nil (seed : SeedWord) :
    computeLanes [] seed = (2#64 * avalanche (seed.setWidth 64), 3#64 * avalanche (seed.setWidth 64)) :=
  finalMix_zero (seed.setWidth 64)

theorem le64bytes_injective : Function.Injective le64bytes := Function.LeftInverse.injective le64_le64bytes

theorem digestOf_injective : Function.Injective digestOf := by
  rintro ⟨a, b⟩ ⟨c, d⟩ h
  obtain ⟨hac, hbd⟩ := List.append_inj h (by rw [le64bytes_length, le64bytes_length])
  exact Prod.ext (le64bytes_injective hac) (le64bytes_injective hbd)

/-- Sixteen zero bytes encode zero lanes, and no others. -/
theorem digestOf_eq_zeros_iff {lanes : Word × Word} : digestOf lanes = List.replicate 16 0#8 ↔ lanes = (0#64, 0#64) := by
  have hzero : digestOf (0#64, 0#64) = List.replicate 16 0#8 := by decide
  rw [← hzero, digestOf_injective.eq_iff]

theorem avalanche_eq_zero_iff {k : Word} : avalanche k = 0#64 ↔ k = 0#64 :=
  avalanche_bijective.injective.eq_iff' avalanche_zero

/-- Twice and three times a word are both zero for zero only, since the word is their difference. -/
theorem two_mul_three_mul_eq_zero_iff {x : Word} : (2#64 * x, 3#64 * x) = (0#64, 0#64) ↔ x = 0#64 := by
  rw [Prod.mk.injEq]
  bv_omega

theorem setWidth_seed_eq_zero_iff {seed : SeedWord} : seed.setWidth 64 = 0#64 ↔ seed = 0#32 := by
  bv_omega

/-- Settles O51: the encoding, the avalanche unit and the widening are injective, so only seed 0 gives zero lanes. -/
theorem emptyMessageDigest : Obligations.EmptyMessageDigest := by
  unfold Obligations.EmptyMessageDigest
  intro seed
  have hdigest : compute [] (some seed) =
      digestOf (2#64 * avalanche (seed.setWidth 64), 3#64 * avalanche (seed.setWidth 64)) :=
    congrArg digestOf (computeLanes_nil seed)
  refine ⟨hdigest, ?_⟩
  rw [hdigest, digestOf_eq_zeros_iff, two_mul_three_mul_eq_zero_iff, avalanche_eq_zero_iff, setWidth_seed_eq_zero_iff]

end Sys2Proof.Machine

/-! PROOFS. The lanes along a computation (`44_sequencer.md` R193): every command that completes keeps them COMPUTE's
pure function of the seed and the message bytes consumed. -/

namespace Sys2Proof.Machine

/-! ### COMPUTE's lanes as the message grows -/

/-- A block behind `q` blocks is block number `q`. -/
theorem messageBlock_append_self {bs b : List Byte} {q : Nat} (hbs : bs.length = 16 * q) (hb : b.length = 16) :
    messageBlock (bs ++ b) q = b := by
  rw [messageBlock, Config.blockBytes, ← hbs, List.drop_left, ← hb, List.take_length]

/-- R131, R193: one block more behind `q` blocks is one block mix more. -/
theorem blocksLanes_append_block {bs b : List Byte} {q : Nat} (seed : SeedWord) (hbs : bs.length = 16 * q)
    (hb : b.length = 16) :
    blocksLanes (bs ++ b) seed (q + 1) = blockMix (blocksLanes bs seed q) (blockWords b) := by
  have hsame : ∀ i < q, messageBlock (bs ++ b) i = messageBlock bs i := fun i hi => messageBlock_append (by omega)
  rw [blocksLanes_succ, messageBlock_append_self hbs hb, blocksLanes_congr seed hsame]

/-- R193: the lanes of whole blocks are the block loop's, with no tail. -/
theorem absorbedLanes_of_aligned {bs : List Byte} {q : Nat} (seed : SeedWord) (hbs : bs.length = 16 * q) :
    absorbedLanes bs seed = blocksLanes bs seed q := by
  have hq : bs.length / 16 = q := by omega
  have hr : bs.length % 16 = 0 := by omega
  simp only [absorbedLanes, Config.blockBytes, hq, hr, if_true]

/-- R150, R193: a tail behind `q` blocks is one tail mix more. -/
theorem absorbedLanes_append_tail {bs b : List Byte} {q : Nat} (seed : SeedWord) (hbs : bs.length = 16 * q)
    (hmin : 1 ≤ b.length) (hmax : b.length ≤ 15) :
    absorbedLanes (bs ++ b) seed = tailMix (blocksLanes bs seed q) (tailPack b) := by
  have hlen : (bs ++ b).length = 16 * q + b.length := by rw [List.length_append, hbs]
  have hq : (bs ++ b).length / 16 = q := by omega
  have hr : (bs ++ b).length % 16 ≠ 0 := by omega
  have hdrop : (bs ++ b).drop (16 * q) = b := by rw [← hbs, List.drop_left]
  have hsame : ∀ i < q, messageBlock (bs ++ b) i = messageBlock bs i := fun i hi => messageBlock_append (by omega)
  simp only [absorbedLanes, Config.blockBytes, hq, if_neg hr, hdrop, blocksLanes_congr seed hsame]

/-! ### What a computation keeps, whatever the memories hold besides the message -/

/-- What the lanes' rules need of a computation, open or done: the clauses of `State.Inv` on `length` and on the digest of
DONE, with the lanes' invariant. Unlike `State.Inv` it asks nothing of the memories' form or of the cause, so that INIT
establishes it from every state (`runInv_openComputation`). -/
structure State.RunInv (s : State) : Prop where
  length_le : s.ph ≠ .idle → s.length.toNat ≤ s.mlen.toNat
  block_aligned : s.ph = .absorb → s.length.toNat % 16 = 0
  all_consumed : s.ph = .tailed ∨ s.ph = .done → s.length = s.mlen
  done_digest : s.ph = .done → Memory.readBytes s.digest digestBase 16 = some (digestOf (s.h1, s.h2))
  lanes : s.LanesInv

theorem State.Inv.runInv {s : State} (h : s.Inv) (hl : s.LanesInv) : s.RunInv :=
  ⟨h.length_le, h.block_aligned, h.all_consumed, h.done_digest, hl⟩

/-- Outside a computation the lanes' invariant asks nothing. -/
theorem lanesInv_of_idle {s : State} (hph : s.ph = .idle) : s.LanesInv := by
  constructor <;> simp [hph]

/-- The lanes' invariant says nothing of the driving mode. -/
theorem State.LanesInv.withDrive {s : State} (h : s.LanesInv) (d : Drive) : State.LanesInv { s with drive := d } :=
  ⟨h.absorb_lanes, h.tailed_lanes, h.done_lanes⟩

theorem State.RunInv.withDrive {s : State} (h : s.RunInv) (d : Drive) : State.RunInv { s with drive := d } :=
  ⟨h.length_le, h.block_aligned, h.all_consumed, h.done_digest, h.lanes.withDrive d⟩

/-- A fault leaves the lanes and the message alone. -/
theorem lanesInv_raiseFault {s : State} (h : s.LanesInv) (c : Cause) : (raiseFault c s).LanesInv :=
  ⟨h.absorb_lanes, h.tailed_lanes, h.done_lanes⟩

/-- INIT opens a computation with the seed's lanes and no byte consumed (R130), whatever the state before. -/
theorem runInv_openComputation (s : State) : (openComputation s).RunInv where
  length_le := by simp
  block_aligned := by simp
  all_consumed := by simp
  done_digest := by simp
  lanes := by
    refine ⟨fun _ => ⟨[], ?_, ?_⟩, by simp, by simp⟩
    · simp [State.Prefix, Memory.readBytes]
    · simp [blocksLanes, seedLanes, Config.h2Init]

/-- The bytes read behind a placed prefix make it longer. -/
theorem State.Prefix.append {s : State} {n k : Nat} {bs b : List Byte} (hbs : s.Prefix n bs)
    (hread : Memory.readBytes s.msg n k = some b) : s.Prefix (n + k) (bs ++ b) :=
  readBytes_append hbs (by rwa [Nat.zero_add])

/-- In ABSORB whole blocks have been consumed, and the lanes are the block loop's over them. -/
theorem State.RunInv.absorbedBlocks {s : State} (h : s.RunInv) (hph : s.ph = .absorb) :
    ∃ bs q, s.length.toNat = 16 * q ∧ bs.length = 16 * q ∧ s.Prefix s.length.toNat bs ∧
      (s.h1, s.h2) = blocksLanes bs s.seed q := by
  have haligned := h.block_aligned hph
  obtain ⟨bs, hbs, hlanes⟩ := h.lanes.absorb_lanes hph
  exact ⟨bs, s.length.toNat / 16, by omega, by rw [readBytes_length hbs]; omega, hbs, hlanes⟩

/-- BLOCK that completes adds its 16 bytes to those consumed, and one block mix to the lanes (R131). -/
theorem runInv_absorbBlock {s : State} (h : s.RunInv) {b : List Byte} (hph : s.ph = .absorb)
    (hfit : s.length.toNat + 16 ≤ s.mlen.toNat) (hread : Memory.readBytes s.msg s.length.toNat 16 = some b) :
    (absorbBlock b s).RunInv := by
  have hlength : (absorbBlock b s).length.toNat = s.length.toNat + 16 := by rw [absorbBlock_length]; bv_omega
  obtain ⟨bs, q, hq, hbslen, hbs, hlanes⟩ := h.absorbedBlocks hph
  have hq' : (s.length.toNat + 16) / 16 = q + 1 := by omega
  refine ⟨fun _ => ?_, fun _ => ?_, by simp [hph], by simp [hph],
    ⟨fun _ => ⟨bs ++ b, ?_, ?_⟩, by simp [hph], by simp [hph]⟩⟩
  · rwa [absorbBlock_mlen, hlength]
  · omega
  · rw [State.Prefix, absorbBlock_msg, hlength]
    exact hbs.append hread
  · rw [absorbBlock_h1, absorbBlock_h2, absorbBlock_seed, hlength, hq',
      blocksLanes_append_block s.seed hbslen (readBytes_length hread), hlanes]

/-- TAIL that completes has consumed the whole message, with the tail mix behind the blocks' lanes (R150). -/
theorem runInv_absorbTail {s : State} (h : s.RunInv) {b : List Byte} (hph : s.ph = .absorb)
    (hmin : 1 ≤ b.length) (hmax : b.length ≤ 15) (hfit : s.length.toNat + b.length = s.mlen.toNat)
    (hread : Memory.readBytes s.msg s.length.toNat b.length = some b) : (absorbTail b s).RunInv := by
  have hlength : s.length + BitVec.ofNat 64 b.length = s.mlen := by bv_omega
  obtain ⟨bs, q, _, hbslen, hbs, hlanes⟩ := h.absorbedBlocks hph
  refine ⟨by simp [hlength], by simp, by simp [hlength], by simp,
    ⟨by simp, fun _ => ⟨bs ++ b, ?_, ?_⟩, by simp⟩⟩
  · rw [State.Prefix, absorbTail_msg, absorbTail_mlen, ← hfit]
    exact hbs.append hread
  · rw [absorbTail_h1, absorbTail_h2, absorbTail_seed, absorbedLanes_append_tail s.seed hbslen hmin hmax, hlanes]

/-- With all bytes consumed, in ABSORB after whole blocks or in TAILED, the lanes are those of the whole message. -/
theorem State.RunInv.absorbedLanes_of_all {s : State} (h : s.RunInv) (hopen : s.ph.isOpen = true)
    (hall : s.length = s.mlen) :
    ∃ bs, s.Prefix s.mlen.toNat bs ∧ (s.h1, s.h2) = absorbedLanes bs s.seed := by
  rcases Phase.isOpen_iff.1 hopen with hph | hph
  · obtain ⟨bs, q, _, hbslen, hbs, hlanes⟩ := h.absorbedBlocks hph
    exact ⟨bs, hall ▸ hbs, hlanes.trans (absorbedLanes_of_aligned s.seed hbslen).symm⟩
  · exact h.lanes.tailed_lanes hph

/-- FINAL that completes leaves COMPUTE's final lanes, and their encoding in the digest space (R170, R171). -/
theorem runInv_finishComputation {s : State} (h : s.RunInv) (hopen : s.ph.isOpen = true)
    (hall : s.length = s.mlen) : (finishComputation s).RunInv := by
  obtain ⟨bs, hbs, hlanes⟩ := h.absorbedLanes_of_all hopen hall
  have hcount : BitVec.ofNat 64 bs.length = s.length := by
    rw [readBytes_length hbs, hall, BitVec.ofNat_toNat, BitVec.setWidth_eq]
  refine ⟨by simp [hall], by simp, by simp [hall], fun _ => ?_, ⟨by simp, by simp, fun _ => ⟨bs, ?_, ?_⟩⟩⟩
  · rw [finishComputation_readBytes, finishComputation_h1, finishComputation_h2]
  · rwa [State.Prefix, finishComputation_msg, finishComputation_mlen]
  · rw [finishComputation_h1, finishComputation_h2, finishComputation_seed, computeLanes, hcount, ← hlanes]

/-- A command that completes keeps the invariant of a computation. -/
theorem State.RunInv.completes {i : Instr} {s t : State} (h : s.RunInv) (hc : Completes i s t) : t.RunInv := by
  cases hc with
  | init _ _ => exact runInv_openComputation s
  | block b hph hfit hread => exact runInv_absorbBlock h hph hfit hread
  | tail b hph hmin hmax hfit hread =>
    obtain rfl := readBytes_length hread
    exact runInv_absorbTail h hph hmin hmax hfit hread
  | final hopen hall => exact runInv_finishComputation h hopen hall

/-- Where both invariants hold, a command keeps the lanes'. -/
theorem lanesInv_exec {i : Instr} {s t : State} (hs : s.Inv) (hl : s.LanesInv) (ht : exec i s = .next t) :
    t.LanesInv := by
  rcases exec_next ht with ⟨_, rfl⟩ | ⟨_, c, _, rfl⟩ | ⟨_, hc⟩
  · exact hl
  · exact lanesInv_raiseFault hl c
  · exact ((hs.runInv hl).completes hc).lanes

/-- Settles O44, by the cases of a step: outside a command that completes, no lane and no message byte changes. -/
theorem stepKeepsLanesInvariant : Obligations.StepKeepsLanesInvariant := by
  unfold Obligations.StepKeepsLanesInvariant
  intro s t hs hl ht
  rcases step_cases ht with ⟨_, he⟩ | he | ⟨d, i, he⟩ | ⟨d, he⟩ | ⟨d, c, _, _, he⟩
  · cases he; exact lanesInv_of_idle (resetEngine_ph s)
  · cases he
  · exact lanesInv_exec (hs.withDrive d) (hl.withDrive d) he
  · cases he; exact hl.withDrive d
  · cases he; exact lanesInv_raiseFault (hl.withDrive d) c

end Sys2Proof.Machine

/-! PROOFS. The sequencer's choice (`44_sequencer.md` R192), and a step in each driving mode (`45_host_interface.md`
R211). -/

namespace Sys2Proof.Machine

/-! ### The sequencer's choice, phase by phase -/

theorem nextCommand_stopped {s : State} (hf : s.flt = true) : nextCommand s = .nothing := by
  rw [nextCommand, if_pos hf]

/-- R212: with no computation open `start` asks for INIT. -/
theorem nextCommand_closed {s : State} (hf : s.flt = false) (hph : s.ph.isOpen = false) :
    nextCommand s = if s.start then .issue .init else .nothing := by
  rcases Phase.isOpen_eq_false_iff.1 hph with h | h <;> simp [nextCommand, hf, h]

theorem nextCommand_tailed {s : State} (hf : s.flt = false) (hph : s.ph = .tailed) :
    nextCommand s = .issue .final := by
  simp [nextCommand, hf, hph]

theorem nextCommand_block {s : State} (hf : s.flt = false) (hph : s.ph = .absorb) (h : 16 ≤ s.remaining) :
    nextCommand s = .issue .block := by
  rw [nextCommand_absorb hf hph, if_pos h]

theorem nextCommand_final {s : State} (hf : s.flt = false) (hph : s.ph = .absorb) (h : s.remaining ≤ 0) :
    nextCommand s = .issue .final := by
  rw [nextCommand_absorb hf hph, if_neg (by omega), if_neg (by omega)]

/-- The assertion holds for the tail lengths 1 to 15. -/
theorem tailChoice_issue {r : Int} (hmin : 1 ≤ r) (hmax : r ≤ 15) : tailChoice r = .issue (.tail r.toNat) :=
  if_pos ⟨hmin, hmax⟩

/-- The assertion fails for every other number. -/
theorem tailChoice_fails {r : Int} (h : r < 1 ∨ 15 < r) : tailChoice r = .assertFails := by
  have hout : ¬ (1 ≤ r ∧ r ≤ 15) := by omega
  exact if_neg hout

theorem nextCommand_tail {s : State} {n : Nat} (hf : s.flt = false) (hph : s.ph = .absorb) (hmin : 1 ≤ n)
    (hmax : n ≤ 15) (h : s.remaining = n) : nextCommand s = .issue (.tail n) := by
  rw [nextCommand_absorb hf hph, if_neg (by omega), if_pos (by omega), tailChoice_issue (by omega) (by omega), h,
    Int.toNat_natCast]

/-- The assertion never fails where the sequencer asks for it: fewer than 16 bytes remain, and at least one (R192). -/
theorem nextCommand_ne_assertFails (s : State) : nextCommand s ≠ .assertFails := by
  cases hf : s.flt with
  | true => simp [nextCommand_stopped hf]
  | false =>
    cases hph : s.ph with
    | idle => rw [nextCommand_closed hf (by simp [hph, Phase.isOpen])]; split <;> simp
    | done => rw [nextCommand_closed hf (by simp [hph, Phase.isOpen])]; split <;> simp
    | tailed => simp [nextCommand_tailed hf hph]
    | absorb =>
      rw [nextCommand_absorb hf hph]
      split
      · simp
      · split
        · rw [tailChoice_issue (by omega) (by omega)]; simp
        · simp

/-- A command that completes is the one the sequencer issues there; for INIT it takes `start`. -/
theorem nextCommand_of_completes {i : Instr} {s t : State} (hc : Completes i s t) (hf : s.flt = false)
    (hstart : i = .init → s.start = true) : nextCommand s = .issue i := by
  cases hc with
  | init hclosed _ => rw [nextCommand_closed hf hclosed, if_pos (hstart rfl)]
  | block b hph hfit _ => exact nextCommand_block hf hph (by rw [State.remaining]; omega)
  | tail b hph hmin hmax hfit _ => exact nextCommand_tail hf hph hmin hmax (by rw [State.remaining]; omega)
  | final hopen hall =>
    rcases Phase.isOpen_iff.1 hopen with hph | hph
    · exact nextCommand_final hf hph (by simp [State.remaining, hall])
    · exact nextCommand_tailed hf hph

/-! ### A step in each driving mode -/

theorem step_sequencer {s : State} (hrst : s.rst = false) (hd : s.drive = .sequencer) :
    step s = performChoice (nextCommand s) s := by
  simp only [step, hrst, runningStep, hd, sequencerStep, Bool.false_eq_true, if_false]

theorem step_commandPort {s : State} {ws : List Byte} (hrst : s.rst = false) (hd : s.drive = .commandPort ws) :
    step s = commandPortStep ws s := by
  simp only [step, hrst, runningStep, hd, Bool.false_eq_true, if_false]

/-- The command the sequencer chooses, or nothing, is never refused. -/
theorem performChoice_not_refused {c : SeqChoice} {s : State} {r : Refusal} : performChoice c s ≠ .refused r := by
  intro h
  cases c with
  | nothing => cases h
  | issue i => exact exec_not_refused h
  | assertFails => cases runCommand_refused (check := some .tailLength) (effect := fun s => .next s) h

theorem runWord_not_refused {w : Byte} {s : State} {r : Refusal} : runWord w s ≠ .refused r := by
  intro h
  rcases runWord_cases h with ⟨i, _, hi⟩ | ⟨_, he⟩ | ⟨_, _, he⟩
  · exact exec_not_refused hi
  · cases he
  · cases he

/-- With `start` low the next word is taken and executed. -/
theorem commandPortStep_cons {w : Byte} {ws : List Byte} {s : State} (hstart : s.start = false) :
    commandPortStep (w :: ws) s = runWord w (feed ws s) := by
  simp [commandPortStep, hstart]

/-- A step is refused only at the command port with `start` high (U15). -/
theorem step_not_refused {s : State} {r : Refusal} (h : s.drive = .sequencer ∨ s.start = false) :
    step s ≠ .refused r := by
  cases hrst : s.rst with
  | true => simp [step, hrst]
  | false =>
    cases hd : s.drive with
    | sequencer =>
      rw [step_sequencer hrst hd]
      exact performChoice_not_refused
    | commandPort ws =>
      rw [step_commandPort hrst hd]
      cases ws with
      | nil => simp [commandPortStep]
      | cons w ws =>
        rw [commandPortStep_cons (h.resolve_left (by simp [hd]))]
        exact runWord_not_refused

/-- A run of placed bytes is readable. -/
theorem readBytes_isSome {m : Memory} : ∀ {n a : Nat}, (∀ x, a ≤ x → x < a + n → (Memory.read m x).isSome = true) →
    (Memory.readBytes m a n).isSome = true
  | 0, _, _ => rfl
  | n + 1, a, h => by
    obtain ⟨b, hb⟩ := Option.isSome_iff_exists.1 (h a (by omega) (by omega))
    obtain ⟨bs, hbs⟩ := Option.isSome_iff_exists.1
      (readBytes_isSome (m := m) (n := n) (a := a + 1) fun x h1 h2 => h x (by omega) (by omega))
    simp [Memory.readBytes, hb, hbs]

/-- With every byte of the message placed a command has a next state. -/
theorem exec_not_fault {i : Instr} {s : State} {f : Fault}
    (h : ∀ a, a < s.mlen.toNat → (Memory.read s.msg a).isSome = true) : exec i s ≠ .fault f := by
  intro he
  obtain ⟨_, n, hfit, hnone⟩ := exec_fault he
  have hsome := readBytes_isSome (m := s.msg) (n := n) (a := s.length.toNat) fun a _ ha => h a (by omega)
  simp [hnone] at hsome

/-! ### An absent seed -/

/-- The state with seed 0 on the ports. -/
def withZeroSeed (s : State) : State := { s with seedPresent := true, seedIn := 0#32 }

/-- INIT latches the seed 0 of the ports as it latches an absent one (R84). -/
theorem openComputation_withZeroSeed {s : State} (h : s.seedPresent = false) :
    openComputation (withZeroSeed s) = withZeroSeed (openComputation s) := by
  rw [openComputation_eq, openComputation_eq, h]
  rfl

/-! ### The settled statements -/

/-- Settles O8. -/
theorem sequencerStepRunsItsChoice : Obligations.SequencerStepRunsItsChoice := by
  unfold Obligations.SequencerStepRunsItsChoice
  intro s hrst
  refine ⟨fun hd => ⟨fun i hi => ?_, fun hn => ?_⟩, fun hd => ?_⟩
  · rw [step_sequencer hrst hd, hi, performChoice]
  · rw [step_sequencer hrst hd, hn, performChoice]
  · rw [step_commandPort hrst hd, commandPortStep]

/-- Settles O9. -/
theorem sequencerNextCommand : Obligations.SequencerNextCommand := by
  unfold Obligations.SequencerNextCommand
  refine ⟨fun s => ⟨nextCommand_stopped, fun hf => ⟨fun hph => ?_, fun hph => ⟨?_, ?_, ?_⟩, nextCommand_tailed hf⟩,
    nextCommand_ne_assertFails s⟩, fun r => ⟨tailChoice_fails, tailChoice_issue⟩, fun s => ⟨fun hf => ?_, fun hf => ?_⟩⟩
  · exact nextCommand_closed hf (Phase.isOpen_eq_false_iff.2 hph)
  · exact nextCommand_block hf hph
  · exact fun n hmin hmax => nextCommand_tail hf hph hmin hmax
  · exact nextCommand_final hf hph
  · rw [performChoice, runCommand_check hf, raiseFault]
  · rw [performChoice, runCommand_stopped hf]

/-- Settles O16: the change of ports passes through INIT's checks and faults, and through what INIT latches. -/
theorem absentSeedIsSeedZero : Obligations.AbsentSeedIsSeedZero := by
  unfold Obligations.AbsentSeedIsSeedZero
  refine ⟨fun s v => ?_, fun msg => ?_⟩
  · exact execInit_mapNext withZeroSeed (s := { s with seedPresent := false, seedIn := v }) rfl (fun _ => rfl) rfl
      (openComputation_withZeroSeed rfl)
  · simp only [compute, Option.getD, Config.seedDefault]

/-- Settles O40: the one stop needs an unplaced byte, and the one refusal `start` beside a word. -/
theorem placedMessageNeverStops : Obligations.PlacedMessageNeverStops := by
  unfold Obligations.PlacedMessageNeverStops
  intro s hplaced hmode
  cases h : step s with
  | next t => exact ⟨t, rfl⟩
  | refused r => exact absurd h (step_not_refused hmode)
  | fault f =>
    rcases step_cases h with ⟨_, he⟩ | he | ⟨d, i, he⟩ | ⟨_, he⟩ | ⟨_, _, _, _, he⟩
    · cases he
    · cases he
    · exact absurd he (exec_not_fault hplaced)
    · cases he
    · cases he

end Sys2Proof.Machine

/-! PROOFS. The schedule of a message (`44_sequencer.md` R191): its words, and that it is the only fault-free command
sequence. -/

namespace Sys2Proof.Machine

/-! ### The commands behind INIT -/

/-- The schedule's commands behind INIT, for `r` message bytes. -/
def afterInit (r : Nat) : List Instr := (schedule r).tail

theorem schedule_eq_cons (n : Nat) : schedule n = .init :: afterInit n := rfl

theorem afterInit_add_block (r : Nat) : afterInit (r + 16) = .block :: afterInit r := by
  simp [afterInit, schedule, List.replicate_succ]

theorem afterInit_tail {n : Nat} (hmin : 1 ≤ n) (hmax : n ≤ 15) : afterInit n = [.tail n, .final] := by
  have hq : n / 16 = 0 := by omega
  have hr : n % 16 = n := by omega
  have hn : n ≠ 0 := by omega
  simp [afterInit, schedule, hq, hr, hn]

theorem afterInit_zero : afterInit 0 = [.final] := rfl

/-- What the schedule still holds in this state: in ABSORB the commands for the bytes remaining, in TAILED FINAL. -/
def State.commandsLeft (s : State) : List Instr :=
  match s.ph with
  | .idle => []
  | .absorb => afterInit (s.mlen.toNat - s.length.toNat)
  | .tailed => [.final]
  | .done => []

theorem commandsLeft_absorb {s : State} (h : s.ph = .absorb) :
    s.commandsLeft = afterInit (s.mlen.toNat - s.length.toNat) := by
  simp only [State.commandsLeft, h]

theorem commandsLeft_tailed {s : State} (h : s.ph = .tailed) : s.commandsLeft = [.final] := by
  simp only [State.commandsLeft, h]

theorem commandsLeft_done {s : State} (h : s.ph = .done) : s.commandsLeft = [] := by
  simp only [State.commandsLeft, h]

/-- What the schedule still holds does not depend on the driving mode. -/
theorem commandsLeft_withDrive (s : State) (d : Drive) :
    State.commandsLeft { s with drive := d } = s.commandsLeft := rfl

/-- A command other than INIT that completes is the next one of the schedule, and leaves the rest of it. -/
theorem commandsLeft_of_completes {i : Instr} {s t : State} (hc : Completes i s t) (hi : i ≠ .init) :
    s.commandsLeft = i :: t.commandsLeft := by
  cases hc with
  | init => exact absurd rfl hi
  | block b hph hfit _ =>
    have hlength : (s.length + 16#64).toNat = s.length.toNat + 16 := by bv_omega
    have hleft : s.mlen.toNat - s.length.toNat = s.mlen.toNat - (s.length.toNat + 16) + 16 := by omega
    rw [commandsLeft_absorb hph, commandsLeft_absorb ((absorbBlock_ph b s).trans hph), absorbBlock_mlen,
      absorbBlock_length, hlength, hleft, afterInit_add_block]
  | tail b hph hmin hmax hfit _ =>
    rw [commandsLeft_absorb hph, commandsLeft_tailed (absorbTail_ph b s), Nat.sub_eq_of_eq_add' hfit.symm,
      afterInit_tail hmin hmax]
  | final hopen hall =>
    rw [commandsLeft_done (finishComputation_ph s)]
    rcases Phase.isOpen_iff.1 hopen with hph | hph
    · rw [commandsLeft_absorb hph, hall, Nat.sub_self, afterInit_zero]
    · exact commandsLeft_tailed hph

/-! ### Sequences of commands that end without a fault -/

/-- A stopped engine ignores a whole sequence of commands. -/
theorem execAll_stopped {s : State} (h : s.flt = true) : ∀ is : List Instr, execAll is s = .next s
  | [] => rfl
  | i :: is => by rw [execAll, exec_stopped i h]; exact execAll_stopped h is

/-- The first command of a sequence that ends without a fault completes. -/
theorem execAll_cons {i : Instr} {is : List Instr} {s t : State} (hf : s.flt = false)
    (h : execAll (i :: is) s = .next t) (ht : t.flt = false) :
    ∃ u, Completes i s u ∧ u.flt = false ∧ execAll is u = .next t := by
  rw [execAll] at h
  cases he : exec i s with
  | fault f => simp [he] at h
  | refused r => simp [he] at h
  | next u =>
    rw [he] at h
    cases hu : u.flt with
    | false => exact ⟨u, exec_completes hf he hu, hu, h⟩
    | true =>
      cases (execAll_stopped hu is).symm.trans h
      simp [hu] at ht

/-- Commands other than INIT that reach the end of the run are what the schedule still held. -/
theorem eq_commandsLeft_of_execAll : ∀ {is : List Instr} {s t : State}, s.flt = false → .init ∉ is →
    execAll is s = .next t → t.EndOfRun → is = s.commandsLeft
  | [], s, t, _, _, h, hend => by
    cases h
    exact (commandsLeft_done hend.1).symm
  | i :: is, s, t, hf, hi, h, hend => by
    obtain ⟨hne, hrest⟩ := not_or.1 (mt List.mem_cons.2 hi)
    obtain ⟨u, hc, hu, hexec⟩ := execAll_cons hf h hend.2
    rw [commandsLeft_of_completes hc (Ne.symm hne), eq_commandsLeft_of_execAll hu hrest hexec hend]

/-- INIT that completes leaves the schedule of `msg_len` behind it. -/
theorem commandsLeft_openComputation (s : State) :
    (openComputation s).commandsLeft = afterInit s.msgLen.toNat := by
  rw [commandsLeft_absorb (openComputation_ph s), openComputation_mlen, openComputation_length]
  rfl

/-! ### The schedule's words -/

theorem schedule_length (n : Nat) : (schedule n).length = 2 + n / 16 + (if n % 16 = 0 then 0 else 1) := by
  simp only [schedule, Config.blockBytes, List.length_cons, List.length_append, List.length_replicate, List.length_nil,
    apply_ite List.length, Nat.zero_add]
  omega

/-- R86, R90: the tail length stands in the low bits of TAIL's word. -/
theorem encode_tail {n : Nat} (h : n < 16) : encode (.tail n) = 0x30#8 + BitVec.ofNat 8 n := by
  have hall : ∀ m : Fin 16, encode (.tail m.val) = 0x30#8 + BitVec.ofNat 8 m.val := by decide
  exact hall ⟨n, h⟩

theorem encodeProgram_schedule (n : Nat) :
    encodeProgram (schedule n) = 0x10#8 :: (List.replicate (n / 16) 0x20#8 ++
      ((if n % 16 = 0 then [] else [0x30#8 + BitVec.ofNat 8 (n % 16)]) ++ [0x40#8])) := by
  have htail : encode (.tail (n % 16)) = 0x30#8 + BitVec.ofNat 8 (n % 16) := encode_tail (Nat.mod_lt n (by decide))
  simp only [encodeProgram, schedule, List.map_cons, List.map_append, List.map_replicate, apply_ite (List.map encode),
    List.map_nil, htail]
  rfl

/-- A command that completes has a command word: TAIL's length is at most 15. -/
theorem Completes.wellFormed {i : Instr} {s t : State} (h : Completes i s t) : i.wellFormed = true := by
  cases h with
  | init => rfl
  | block => rfl
  | tail _ _ _ hmax => simpa [Instr.wellFormed] using hmax
  | final => rfl

theorem schedule_wellFormed {n : Nat} {i : Instr} (h : i ∈ schedule n) : i.wellFormed = true := by
  have htail : (Instr.tail (n % 16)).wellFormed = true := by
    have hn : n % 16 ≤ 15 := by omega
    simpa [Instr.wellFormed] using hn
  simp only [schedule, List.mem_cons, List.mem_append, List.mem_replicate, List.mem_ite_nil_left, List.not_mem_nil,
    or_false] at h
  rcases h with rfl | ⟨_, rfl⟩ | ⟨_, rfl⟩ | rfl
  · rfl
  · rfl
  · exact htail
  · rfl

/-! ### The settled statements -/

/-- Settles O47. -/
theorem scheduleWords : Obligations.ScheduleWords := by
  unfold Obligations.ScheduleWords
  exact fun n => ⟨schedule_length n, encodeProgram_schedule n, fun _ => schedule_wellFormed⟩

/-- Settles O48: INIT completes, and from there each command that completes is the next one of the schedule. -/
theorem scheduleIsTheOnlyFaultFreeSequence : Obligations.ScheduleIsTheOnlyFaultFreeSequence := by
  unfold Obligations.ScheduleIsTheOnlyFaultFreeSequence
  intro s t is hf hi h hend
  obtain ⟨u, hc, hu, hexec⟩ := execAll_cons hf h hend.2
  cases hc
  rw [eq_commandsLeft_of_execAll hu hi hexec hend, commandsLeft_openComputation, schedule_eq_cons]

end Sys2Proof.Machine

/-! PROOFS. A run of a message in either driving mode (`44_sequencer.md` R193 to R195, `45_host_interface.md` R211): the
schedule's commands complete one by one, and the last of them leaves COMPUTE's digest. -/

namespace Sys2Proof.Machine

/-! ### The next command in either driving mode -/

/-- How the host drives the engine to the commands `is`: `start` high and the sequencer, or `start` low and their words
at the command port (R211). -/
def driveFor (start : Bool) (is : List Instr) : Drive :=
  if start then .sequencer else .commandPort (encodeProgram is)

/-- Out of reset, and driven to the commands `is`. -/
structure State.DrivenTo (start : Bool) (is : List Instr) (s : State) : Prop where
  out_of_reset : s.rst = false
  start_eq : s.start = start
  drive_eq : s.drive = driveFor start is

/-- A command that completes is executed by name. -/
theorem exec_of_completes {i : Instr} {s t : State} (hc : Completes i s t) (hf : s.flt = false) :
    exec i s = .next t := by
  cases hc with
  | init hclosed hlen => exact exec_init_of_check hf (initCheck_none.2 ⟨hclosed, hlen⟩)
  | block b hph hfit hread => exact exec_block_of_read hf hph hfit hread
  | tail b hph hmin hmax hfit hread => exact exec_tail_of_read hf hph hmin hmax hfit hread
  | final hopen hall => exact exec_final_of_check hf (finalCheck_none.2 ⟨hopen, hall⟩)

/-- A word at the command port runs its command, with `start` low. -/
theorem step_word {i : Instr} {is : List Instr} {s : State} (hwf : i.wellFormed = true) (hrst : s.rst = false)
    (hstart : s.start = false) (hd : s.drive = .commandPort (encodeProgram (i :: is))) :
    step s = exec i { s with drive := .commandPort (encodeProgram is) } := by
  have hword : runWord (encode i) (feed (encodeProgram is) s) = exec i (feed (encodeProgram is) s) := by
    rw [runWord, decode_encode hwf]
  rw [step_commandPort hrst hd, encodeProgram, List.map_cons, commandPortStep_cons hstart]
  exact hword

/-- In either driving mode a step executes the next command, where it completes. -/
theorem State.DrivenTo.step {start : Bool} {i : Instr} {is : List Instr} {s t : State} (h : s.DrivenTo start (i :: is))
    (hf : s.flt = false) (hc : Completes i { s with drive := driveFor start is } t) :
    step s = .next t ∧ t.DrivenTo start is := by
  obtain ⟨hrst, hstart, hd⟩ := h
  obtain ⟨⟨hrst', hstart', _, _, _, hd', _⟩, _, _⟩ := hc.frame
  refine ⟨?_, hrst'.symm.trans hrst, hstart'.symm.trans hstart, hd'.symm⟩
  cases start with
  | true =>
    have hsame : { s with drive := driveFor true is } = s := by rw [show driveFor true is = s.drive from hd.symm]
    rw [hsame] at hc
    rw [step_sequencer hrst hd, nextCommand_of_completes hc hf fun _ => hstart, performChoice, exec_of_completes hc hf]
  | false => rw [step_word hc.wellFormed hrst hstart hd]; exact exec_of_completes hc hf

/-! ### Every open computation goes on -/

/-- With the message placed, some command other than INIT completes in an open computation. -/
theorem exists_completes {s : State} {msg : List Byte} (hs : s.RunInv) (hopen : s.ph.isOpen = true)
    (hplaced : s.Prefix s.mlen.toNat msg) : ∃ i t, i ≠ .init ∧ Completes i s t := by
  by_cases hall : s.length = s.mlen
  · exact ⟨.final, _, by simp, .final hopen hall⟩
  have hph : s.ph = .absorb := (Phase.isOpen_iff.1 hopen).resolve_right fun h => hall (hs.all_consumed (.inl h))
  have hle : s.length.toNat ≤ s.mlen.toNat := hs.length_le (by simp [hph])
  have hne : s.length.toNat ≠ s.mlen.toNat := fun h => hall (BitVec.eq_of_toNat_eq h)
  have hread : ∀ n, s.length.toNat + n ≤ s.mlen.toNat →
      Memory.readBytes s.msg s.length.toNat n = some ((msg.drop s.length.toNat).take n) := fun n hn => by
    simpa only [Nat.zero_add] using readBytes_part hplaced hn
  by_cases hfit : s.length.toNat + 16 ≤ s.mlen.toNat
  · exact ⟨.block, _, by simp, .block _ hph hfit (hread 16 hfit)⟩
  · exact ⟨.tail (s.mlen.toNat - s.length.toNat), _, by simp,
      .tail _ hph (by omega) (by omega) (by omega) (hread _ (by omega))⟩

/-- A computation of the message `msg` and the latched seed `seed`, open or done, without a fault, driven to the rest of
its schedule. -/
structure State.Runs (msg : List Byte) (seed : SeedWord) (start : Bool) (s : State) : Prop where
  inv : s.RunInv
  no_fault : s.flt = false
  begun : s.ph ≠ .idle
  placed : s.Prefix s.mlen.toNat msg
  seed_eq : s.seed = seed
  driven : s.DrivenTo start s.commandsLeft

/-- A command other than INIT that completes keeps what a run has fixed. -/
theorem Completes.keeps_run {i : Instr} {s t : State} (hc : Completes i s t) (hi : i ≠ .init) :
    t.msg = s.msg ∧ t.mlen = s.mlen ∧ t.seed = s.seed ∧ (s.ph ≠ .idle → t.ph ≠ .idle) := by
  cases hc <;> simp at hi ⊢

theorem State.Runs.open_or_done {msg : List Byte} {seed : SeedWord} {start : Bool} {s : State}
    (h : s.Runs msg seed start) : s.ph.isOpen = true ∨ s.ph = .done := by
  cases hph : s.ph with
  | idle => exact absurd hph h.begun
  | absorb => exact .inl rfl
  | tailed => exact .inl rfl
  | done => exact .inr rfl

/-- While the computation is open a step executes the next command of the schedule, and the run goes on. -/
theorem State.Runs.step {msg : List Byte} {seed : SeedWord} {start : Bool} {s : State} (h : s.Runs msg seed start)
    (hopen : s.ph.isOpen = true) :
    ∃ t, step s = .next t ∧ t.Runs msg seed start ∧ s.commandsLeft.length = t.commandsLeft.length + 1 := by
  obtain ⟨hs, hf, hbegun, hplaced, hseed, hdriven⟩ := h
  have hs' := hs.withDrive (driveFor start s.commandsLeft.tail)
  obtain ⟨i, t, hi, hc⟩ := exists_completes hs' hopen hplaced
  have hleft : s.commandsLeft = i :: t.commandsLeft :=
    (commandsLeft_withDrive s _).symm.trans (commandsLeft_of_completes hc hi)
  have ht := hs'.completes hc
  obtain ⟨hmsg, hmlen, hseed', hbegun'⟩ := hc.keeps_run hi
  obtain ⟨_, hflt, _⟩ := hc.frame
  rw [hleft] at hdriven hc
  obtain ⟨hstep, hdriven'⟩ := hdriven.step hf hc
  refine ⟨t, hstep, ⟨ht, hflt.trans hf, hbegun' hbegun, ?_, hseed'.trans hseed, hdriven'⟩, ?_⟩
  · rwa [State.Prefix, hmsg, hmlen]
  · rw [hleft, List.length_cons]

/-! ### The run -/

/-- The first of `k + 1` steps, where it answers a next state. -/
theorem run_succ {s t : State} (k : Nat) (h : step s = .next t) :
    Host.Core.run core (k + 1) s = Host.Core.run core k t := by
  have hcore : core.step s = .next t := h
  simp only [Host.Core.run, hcore]

/-- As many steps as the schedule has commands left end the computation. -/
theorem State.Runs.run {msg : List Byte} {seed : SeedWord} {start : Bool} {s : State} (h : s.Runs msg seed start) :
    ∃ t : State, Host.Core.run core s.commandsLeft.length s = .next t ∧ t.Runs msg seed start ∧ t.ph = .done := by
  induction hn : s.commandsLeft.length generalizing s with
  | zero =>
    rcases h.open_or_done with hopen | hdone
    · obtain ⟨t, _, _, hlen⟩ := h.step hopen
      omega
    · exact ⟨s, rfl, h, hdone⟩
  | succ n ih =>
    rcases h.open_or_done with hopen | hdone
    · obtain ⟨t, hstep, ht, hlen⟩ := h.step hopen
      rw [run_succ n hstep]
      exact ih ht (by omega)
    · simp [commandsLeft_done hdone] at hn

/-- R193: at the end of the run the host reads COMPUTE's digest. -/
theorem State.Runs.readDigest {msg : List Byte} {seed : SeedWord} {start : Bool} {s : State} (h : s.Runs msg seed start)
    (hdone : s.ph = .done) : readDigest s = .ok (digestOf (computeLanes msg seed)) := by
  obtain ⟨bs, hbs, hlanes⟩ := h.inv.lanes.done_lanes hdone
  obtain rfl : bs = msg := Option.some.inj (hbs.symm.trans h.placed)
  rw [Machine.readDigest, if_pos (State.doneOut_iff.2 ⟨hdone, h.no_fault⟩), h.inv.done_digest hdone, hlanes, h.seed_eq]

/-- R194 (c): the seed INIT latches is the one COMPUTE takes. -/
theorem compute_portSeed (msg : List Byte) (s : State) :
    compute msg s.portSeed = digestOf (computeLanes msg (seedOperand s.seedPresent s.seedIn)) := by
  rw [compute, State.portSeed, seedOperand]
  split <;> rfl

/-- From a ready state driven to the schedule the first step is INIT's, and opens the run. -/
theorem State.ReadyFor.step {msg : List Byte} {start : Bool} {s : State} (h : s.ReadyFor msg)
    (hdriven : s.DrivenTo start (schedule msg.length)) :
    ∃ t, step s = .next t ∧ t.Runs msg (seedOperand s.seedPresent s.seedIn) start ∧
      t.commandsLeft = afterInit msg.length := by
  obtain ⟨_, hf, hclosed, hlen, hplaced⟩ := h
  have hleft : ∀ d, (openComputation { s with drive := d }).commandsLeft = afterInit msg.length := fun d => by
    rw [commandsLeft_openComputation, readBytes_length hplaced]
  obtain ⟨hstep, hdriven'⟩ := State.DrivenTo.step hdriven hf (.init hclosed hlen)
  refine ⟨_, hstep, ⟨runInv_openComputation _, ?_, by simp, ?_, ?_, ?_⟩, hleft _⟩
  · rw [openComputation_flt]; exact hf
  · rw [State.Prefix, openComputation_msg, openComputation_mlen]; exact hplaced
  · rw [openComputation_seed]
  · rwa [hleft]

/-- R193, R195: from a ready state as many steps as the schedule has commands end the run, with COMPUTE's digest. -/
theorem run_of_ready {msg : List Byte} {start : Bool} {s : State} (h : s.ReadyFor msg)
    (hdriven : s.DrivenTo start (schedule msg.length)) :
    ∃ t : State, Host.Core.run core (schedule msg.length).length s = .next t ∧ t.EndOfRun ∧ t.length = t.mlen ∧
      t.drive = driveFor start [] ∧ readDigest t = .ok (compute msg s.portSeed) := by
  obtain ⟨u, hstep, hu, hleft⟩ := h.step hdriven
  obtain ⟨t, hrun, ht, hdone⟩ := hu.run
  refine ⟨t, ?_, ⟨hdone, ht.no_fault⟩, ht.inv.all_consumed (.inr hdone), ?_, ?_⟩
  · rw [schedule_eq_cons, List.length_cons, run_succ _ hstep, ← hleft, hrun]
  · rw [ht.driven.drive_eq, commandsLeft_done hdone]
  · rw [ht.readDigest hdone, compute_portSeed]

/-! ### The settled statements -/

/-- Settles O49: with `start` high the sequencer drives the engine to the schedule. -/
theorem sequencerRunComputes : Obligations.SequencerRunComputes := by
  unfold Obligations.SequencerRunComputes
  intro s msg hready hd hstart
  have hdriven : s.DrivenTo true (schedule msg.length) := ⟨hready.out_of_reset, hstart, hd⟩
  obtain ⟨t, hrun, hend, hall, _, hdigest⟩ := run_of_ready hready hdriven
  exact ⟨t, schedule_length msg.length ▸ hrun, hend, hall, hdigest⟩

/-- Settles O50: with `start` low the schedule's words drive the engine to it, and none is left. -/
theorem commandPortRunComputes : Obligations.CommandPortRunComputes := by
  unfold Obligations.CommandPortRunComputes
  intro s msg hready hstart hd
  have hdriven : s.DrivenTo false (schedule msg.length) := ⟨hready.out_of_reset, hstart, hd⟩
  obtain ⟨t, hrun, hend, _, hd', hdigest⟩ := run_of_ready hready hdriven
  exact ⟨t, hrun, hend, hd', hdigest⟩

end Sys2Proof.Machine

/-! PROOFS. The host's interface (`45_host_interface.md`): the level of `start` beside a command word and beside the sequencer
(R211, R212), and the digest port (R210). -/

namespace Sys2Proof.Machine

/-! ### The level of `start` at the command port -/

theorem samplesStart_iff {s : State} : samplesStart s = true ↔ s.ph.isOpen = false ∧ s.flt = false := by
  simp [samplesStart, and_comm]

theorem samplesStart_eq_false_iff {s : State} : samplesStart s = false ↔ s.ph.isOpen = true ∨ s.flt = true := by
  simp [samplesStart, imp_iff_or_not]

/-- Where `start` is low or not sampled, the next word is taken and executed. -/
theorem commandPortStep_unsampled {w : Byte} {ws : List Byte} {s : State}
    (h : s.start = false ∨ samplesStart s = false) : commandPortStep (w :: ws) s = runWord w (feed ws s) := by
  have hlow : ¬ (s.start && samplesStart s) = true := by simpa [imp_iff_not_or] using h
  rw [commandPortStep, if_neg hlow]

/-- Where `start` would be sampled, a word is refused (U15). -/
theorem commandPortStep_sampled {w : Byte} {ws : List Byte} {s : State} (hstart : s.start = true)
    (h : samplesStart s = true) : commandPortStep (w :: ws) s = .refused .bothDrivingModes := by
  rw [commandPortStep, hstart, h]
  rfl

theorem runWord_command {w : Byte} {i : Instr} (h : decode w = .command i) (s : State) : runWord w s = exec i s := by
  rw [runWord, h]

/-! ### The level of `start` as a state change no command looks at -/

/-- The state with another level of `start`. -/
def withStart (level : Bool) (s : State) : State := { s with start := level }

theorem openComputation_withStart (level : Bool) (s : State) :
    openComputation (withStart level s) = withStart level (openComputation s) := rfl

theorem absorbBlock_withStart (b : List Byte) (level : Bool) (s : State) :
    absorbBlock b (withStart level s) = withStart level (absorbBlock b s) := rfl

theorem absorbTail_withStart (t : List Byte) (level : Bool) (s : State) :
    absorbTail t (withStart level s) = withStart level (absorbTail t s) := rfl

/-- The final lanes get a name first, so that no unfolding evaluates them. -/
theorem finishComputation_withStart (level : Bool) (s : State) :
    finishComputation (withStart level s) = withStart level (finishComputation s) := by
  obtain ⟨lanes, hlanes⟩ : ∃ lanes, finalMix (s.h1, s.h2) s.length = lanes := ⟨_, rfl⟩
  rw [finishComputation_eq hlanes, finishComputation_eq (s := withStart level s) hlanes]
  simp only [withStart]

/-- A change of the level of `start` passes through every command. -/
theorem exec_withStart (i : Instr) (level : Bool) (s : State) :
    exec i (withStart level s) = mapNext (withStart level) (exec i s) := by
  cases i with
  | init => exact execInit_mapNext (withStart level) rfl (fun _ => rfl) rfl (openComputation_withStart level s)
  | block =>
    exact execBlock_mapNext (withStart level) rfl (fun _ => rfl) rfl rfl fun b => absorbBlock_withStart b level s
  | tail n =>
    exact execTail_mapNext (withStart level) rfl (fun _ => rfl) rfl rfl fun t => absorbTail_withStart t level s
  | final => exact execFinal_mapNext (withStart level) rfl (fun _ => rfl) rfl (finishComputation_withStart level s)

/-- What the sequencer's choice does lets the level of `start` through. -/
theorem performChoice_withStart (c : SeqChoice) (level : Bool) (s : State) :
    performChoice c (withStart level s) = mapNext (withStart level) (performChoice c s) := by
  cases c with
  | nothing => rfl
  | issue i => exact exec_withStart i level s
  | assertFails =>
    exact runCommand_mapNext (check := some .tailLength) (effect := fun s => .next s) (effect' := fun s => .next s)
      (withStart level) rfl (fun _ => rfl) rfl rfl

/-- R212: in an open computation or a stopped engine the sequencer's choice does not look at `start`. -/
theorem nextCommand_withStart {s : State} (level : Bool) (h : s.ph.isOpen = true ∨ s.flt = true) :
    nextCommand (withStart level s) = nextCommand s := by
  cases hf : s.flt with
  | true => rw [nextCommand_stopped hf, nextCommand_stopped (s := withStart level s) hf]
  | false =>
    rcases Phase.isOpen_iff.1 (h.resolve_right (by simp [hf])) with hph | hph
    · rw [nextCommand_absorb hf hph, nextCommand_absorb (s := withStart level s) hf hph]
      rfl
    · rw [nextCommand_tailed hf hph, nextCommand_tailed (s := withStart level s) hf hph]

/-! ### The digest port -/

/-- The high word of a 128-bit number counts `2^64` times. -/
theorem append_word_toNat (hi lo : Word) : (hi ++ lo).toNat = hi.toNat * 2 ^ 64 + lo.toNat := by
  rw [BitVec.toNat_append, ← Nat.shiftLeft_add_eq_or_of_lt lo.isLt, Nat.shiftLeft_eq]

/-- At the end of a run the port carries lane 2 above lane 1. -/
theorem digestPort_of_endOfRun {s : State} (hs : s.Inv) (hend : s.EndOfRun) : digestPort s = .ok (s.h2 ++ s.h1) := by
  have hlen : (le64bytes s.h1).length = 8 := le64bytes_length s.h1
  rw [digestPort, readDigest_of_endOfRun hs hend]
  simp only [digestOf, List.drop_left' hlen, List.take_left' hlen, le64_le64bytes]

/-! ### The settled statements -/

/-- Settles O10: with no computation open and no fault `start` asks for INIT; elsewhere neither the sequencer's choice nor what
it does looks at the level. -/
theorem startIsOnlyARequest : Obligations.StartIsOnlyARequest := by
  unfold Obligations.StartIsOnlyARequest
  intro s hrst hd
  refine ⟨fun hstart hclosed hf => ?_, fun h level => ?_⟩
  · rw [step_sequencer hrst hd, nextCommand_closed hf hclosed, if_pos hstart, performChoice]
  · calc step (withStart level s)
        = performChoice (nextCommand s) (withStart level s) := by
          rw [step_sequencer (s := withStart level s) hrst hd, nextCommand_withStart level h]
      _ = mapNext (withStart level) (performChoice (nextCommand s) s) := performChoice_withStart _ level s
      _ = mapNext (withStart level) (step s) := by rw [step_sequencer hrst hd]

/-- Settles O27. -/
theorem digestPortIsTheLanes : Obligations.DigestPortIsTheLanes := by
  unfold Obligations.DigestPortIsTheLanes
  exact fun s hs hend => ⟨s.h2 ++ s.h1, digestPort_of_endOfRun hs hend, append_word_toNat s.h2 s.h1⟩

/-- Settles O4. -/
theorem stepRunsDecodedCommand : Obligations.StepRunsDecodedCommand := by
  unfold Obligations.StepRunsDecodedCommand
  intro s w ws i hrst hd hstart hw
  have hunsampled : s.start = false ∨ samplesStart s = false := hstart.imp_right samplesStart_eq_false_iff.2
  rw [step_commandPort hrst hd, commandPortStep_unsampled hunsampled, runWord_command hw, feed]

/-- Settles O5. -/
theorem bothDrivingModesRefused : Obligations.BothDrivingModesRefused := by
  unfold Obligations.BothDrivingModesRefused
  intro s w ws hrst hd hstart hclosed hf
  rw [step_commandPort hrst hd, commandPortStep_sampled hstart (samplesStart_iff.2 ⟨hclosed, hf⟩)]

end Sys2Proof.Machine

/-! PROOFS. The faults (`60_exceptions.md`): which check a command fails first, what a fault leaves of the state, and
what a stopped engine still does. -/

namespace Sys2Proof.Machine

/-! ### The check and the effect of a command -/

/-- The checks of a command, in priority order (R235). `exec_eq_runCommand` ties it to `exec`. -/
def commandCheck (i : Instr) (s : State) : Option Cause :=
  match i with
  | .init => initCheck s
  | .block => blockCheck s
  | .tail n => tailCheck n s
  | .final => finalCheck s

/-- What a command does once its checks pass (R130, R131, R150, R170). `exec_eq_runCommand` ties it to `exec`. -/
def commandEffect (i : Instr) : State → Result :=
  match i with
  | .init => fun s => .next (openComputation s)
  | .block => withMessageBytes 16 absorbBlock
  | .tail n => withMessageBytes n absorbTail
  | .final => fun s => .next (finishComputation s)

theorem exec_eq_runCommand (i : Instr) (s : State) : exec i s = runCommand (commandCheck i s) (commandEffect i) s := by
  cases i <;> rfl

/-- The effect of a command raises no fault. -/
theorem commandEffect_keeps_flt {i : Instr} {s t : State} (h : commandEffect i s = .next t) : t.flt = s.flt := by
  cases i with
  | init => cases h; exact openComputation_flt s
  | block =>
    obtain ⟨b, _, rfl⟩ := withMessageBytes_next h
    exact absorbBlock_flt b s
  | tail n =>
    obtain ⟨b, _, rfl⟩ := withMessageBytes_next h
    exact absorbTail_flt b s
  | final => cases h; exact finishComputation_flt s

theorem commandCheck_ne_noFault {i : Instr} {s : State} {c : Cause} (h : commandCheck i s = some c) : c ≠ .noFault := by
  cases i with
  | init => exact initCheck_ne_noFault h
  | block => exact blockCheck_ne_noFault h
  | tail n => exact tailCheck_ne_noFault h
  | final => exact finalCheck_ne_noFault h

/-- R236: no check looks at a message byte. -/
theorem commandCheck_withMessage (i : Instr) (m : Memory) (s : State) :
    commandCheck i (withMessage m s) = commandCheck i s := by
  cases i <;> rfl

/-! ### Which check fails first -/

theorem mem_allowedIn_init {p : Phase} : p ∈ allowedIn .init ↔ p.isOpen = false := by
  simp [allowedIn, Phase.isOpen_eq_false_iff]

theorem mem_allowedIn_block {p : Phase} : p ∈ allowedIn .block ↔ p = .absorb := List.mem_singleton

theorem mem_allowedIn_tail {p : Phase} {n : Nat} : p ∈ allowedIn (.tail n) ↔ p = .absorb := List.mem_singleton

theorem mem_allowedIn_final {p : Phase} : p ∈ allowedIn .final ↔ p.isOpen = true := by
  simp [allowedIn, Phase.isOpen_iff]

/-- R233: the first check fails exactly in the phases that do not allow the command. -/
theorem commandCheck_sequence_iff {i : Instr} {s : State} : commandCheck i s = some .sequence ↔ s.ph ∉ allowedIn i := by
  cases i with
  | init =>
    rw [mem_allowedIn_init, Bool.not_eq_false]
    refine ⟨fun h => ?_, fun hopen => if_pos hopen⟩
    rcases initCheck_some h with ⟨_, hopen⟩ | ⟨hc, _⟩
    · exact hopen
    · cases hc
  | block =>
    rw [mem_allowedIn_block]
    refine ⟨fun h => ?_, fun hph => if_pos hph⟩
    rcases blockCheck_some h with ⟨_, hph⟩ | ⟨hc, _⟩
    · exact hph
    · cases hc
  | tail n =>
    rw [mem_allowedIn_tail]
    refine ⟨fun h => ?_, fun hph => if_pos hph⟩
    rcases tailCheck_some h with ⟨_, hph⟩ | ⟨hc, _⟩ | ⟨hc, _⟩
    · exact hph
    · cases hc
    · cases hc
  | final =>
    rw [mem_allowedIn_final, Bool.not_eq_true]
    refine ⟨fun h => ?_, fun hclosed => if_pos (by simp [hclosed])⟩
    rcases finalCheck_some h with ⟨_, hclosed⟩ | ⟨hc, _⟩
    · exact hclosed
    · cases hc

/-- R231: in ABSORB the second check of TAIL fails for a length outside 1..15, whatever remains. -/
theorem tailCheck_tailLength {n : Nat} {s : State} (hph : s.ph = .absorb) (hn : n = 0 ∨ 15 < n) :
    tailCheck n s = some .tailLength := by
  have hout : n < 1 ∨ 15 < n := by omega
  exact (if_neg (not_not.2 hph)).trans (if_pos hout)

/-- R234, R235: past the phase and the tail length the last check decides, by the bytes that remain. -/
theorem commandCheck_of_allowed {i : Instr} {s : State} (hph : s.ph ∈ allowedIn i)
    (hlen : ∀ n, i = .tail n → 1 ≤ n ∧ n ≤ 15) :
    (misframed i s → commandCheck i s = some .framing) ∧ (¬ misframed i s → commandCheck i s = none) := by
  cases i with
  | init =>
    have hpass : ¬ s.ph.isOpen = true := by simp [mem_allowedIn_init.1 hph]
    exact ⟨fun h => (if_neg hpass).trans (if_pos h), fun h => (if_neg hpass).trans (if_neg h)⟩
  | block =>
    have hpass : ¬ s.ph ≠ .absorb := not_not.2 (mem_allowedIn_block.1 hph)
    exact ⟨fun h => (if_neg hpass).trans (if_pos h), fun h => (if_neg hpass).trans (if_neg h)⟩
  | tail n =>
    obtain ⟨hmin, hmax⟩ := hlen n rfl
    have hpass : ¬ s.ph ≠ .absorb := not_not.2 (mem_allowedIn_tail.1 hph)
    have hin : ¬ (n < 1 ∨ 15 < n) := by omega
    exact ⟨fun h => (if_neg hpass).trans ((if_neg hin).trans (if_pos h)),
      fun h => (if_neg hpass).trans ((if_neg hin).trans (if_neg h))⟩
  | final =>
    have hpass : ¬ (!s.ph.isOpen) = true := by simp [mem_allowedIn_final.1 hph]
    exact ⟨fun h => (if_neg hpass).trans (if_pos h), fun h => (if_neg hpass).trans (if_neg h)⟩

/-! ### What the first failing check decides -/

/-- R236: a failing check is the command's whole outcome. -/
theorem exec_of_commandCheck {i : Instr} {s : State} {c : Cause} (hf : s.flt = false) (h : commandCheck i s = some c) :
    exec i s = .next (raiseFault c s) := by
  rw [exec_eq_runCommand, h, runCommand_check hf]

/-- R231: TAIL with a length outside 1..15 raises TailLength in ABSORB. -/
theorem exec_tail_tailLength {n : Nat} {s : State} (hf : s.flt = false) (hph : s.ph = .absorb) (hn : n = 0 ∨ 15 < n) :
    exec (.tail n) s = .next (raiseFault .tailLength s) :=
  exec_of_commandCheck hf (tailCheck_tailLength hph hn)

/-- A command whose checks pass raises no fault. -/
theorem exec_flt_of_commandCheck_none {i : Instr} {s t : State} (hf : s.flt = false) (hc : commandCheck i s = none)
    (h : exec i s = .next t) : t.flt = false := by
  rw [exec_eq_runCommand, hc, runCommand_pass hf] at h
  rw [commandEffect_keeps_flt h, hf]

/-- A command that raises a fault took it from a failing check. -/
theorem exec_fault_entry {i : Instr} {s t : State} (hf : s.flt = false) (h : exec i s = .next t) (ht : t.flt = true) :
    ∃ c, commandCheck i s = some c ∧ t = raiseFault c s := by
  cases hc : commandCheck i s with
  | none => simp [exec_flt_of_commandCheck_none hf hc h] at ht
  | some c =>
    rw [exec_of_commandCheck hf hc] at h
    cases h
    exact ⟨c, rfl, rfl⟩

/-- R236: a fault's cause does not depend on the message. -/
theorem exec_withMessage_of_commandCheck {i : Instr} {s : State} {c : Cause} (hf : s.flt = false)
    (h : commandCheck i s = some c) (m : Memory) :
    exec i (withMessage m s) = .next (withMessage m (raiseFault c s)) :=
  exec_of_commandCheck (s := withMessage m s) hf ((commandCheck_withMessage i m s).trans h)

/-! ### Command words and steps -/

/-- R235, R237: a stopped engine ignores every word, legal or not. -/
theorem runWord_stopped {s : State} (hf : s.flt = true) (w : Byte) : runWord w s = .next s := by
  cases hw : decode w with
  | command i => rw [runWord_command hw, exec_stopped i hf]
  | illegal => rw [runWord, hw]; exact runCommand_stopped (effect := fun s => .next s) hf

/-- R232: an illegal word raises IllegalCommand in any phase. -/
theorem runWord_illegal {w : Byte} {s : State} (hf : s.flt = false) (hw : decode w = .illegal) :
    runWord w s = .next (raiseFault .illegalCommand s) := by
  rw [runWord, hw]
  exact runCommand_check (effect := fun s => .next s) hf

/-- Every tail length a word carries is at most 15, so TAIL 0 is the one that fails (R87, R231). -/
theorem tail_length_of_decode {w : Byte} {i : Instr} (hw : decode w = .command i) (hi : i ≠ .tail 0) :
    ∀ n, i = .tail n → 1 ≤ n ∧ n ≤ 15 := by
  rintro n rfl
  have hn : n ≠ 0 := fun h0 => hi (by rw [h0])
  have hmax : n ≤ 15 := by simpa [Instr.wellFormed] using (encode_of_decode hw).2
  omega

/-- Where `start` is low or has no effect (R212), a step at the command port takes the next word and runs it. -/
theorem step_runWord {w : Byte} {ws : List Byte} {s : State} (hrst : s.rst = false)
    (hd : s.drive = .commandPort (w :: ws)) (hstart : s.start = false ∨ s.ph.isOpen = true ∨ s.flt = true) :
    step s = runWord w (feed ws s) := by
  rw [step_commandPort hrst hd, commandPortStep_unsampled (hstart.imp_right samplesStart_eq_false_iff.2)]

/-- R211, R237: a step of a stopped engine takes the next word and nothing else. -/
theorem step_word_stopped {w : Byte} {ws : List Byte} {s : State} (hf : s.flt = true) (hrst : s.rst = false)
    (hd : s.drive = .commandPort (w :: ws)) : step s = .next (feed ws s) := by
  rw [step_runWord hrst hd (.inr (.inr hf)), runWord_stopped (by simpa using hf)]

/-- R232: a step on an illegal word takes it and raises IllegalCommand. -/
theorem step_illegal {w : Byte} {ws : List Byte} {s : State} (hf : s.flt = false) (hrst : s.rst = false)
    (hd : s.drive = .commandPort (w :: ws)) (hstart : s.start = false ∨ s.ph.isOpen = true)
    (hw : decode w = .illegal) : step s = .next (raiseFault .illegalCommand (feed ws s)) := by
  rw [step_runWord hrst hd (hstart.imp_right .inl), runWord_illegal (by simpa using hf) hw]

/-- R237: only the reset takes a stopped engine out of its fault. -/
theorem rst_of_step_clears_flt {s t : State} (hf : s.flt = true) (h : step s = .next t) (ht : t.flt = false) :
    s.rst = true := by
  rcases step_cases h with ⟨hrst, _⟩ | he | ⟨d, i, he⟩ | ⟨d, he⟩ | ⟨_, _, _, hrunning, _⟩
  · exact hrst
  · cases he
  · rw [exec_stopped i (s := { s with drive := d }) hf] at he
    cases he
    simp [hf] at ht
  · cases he
    simp [hf] at ht
  · simp [hf] at hrunning

/-! ### The settled statements -/

/-- Settles O6. -/
theorem illegalWordRaisesIllegalCommand : Obligations.IllegalWordRaisesIllegalCommand := by
  unfold Obligations.IllegalWordRaisesIllegalCommand
  intro s w ws hrst hd hstart hf hinit hblock htail hfinal
  exact step_illegal hf hrst hd (.inl hstart) (decode_illegal hinit hblock htail hfinal)

/-- Settles O7: a stopped engine ignores the word it takes, and one that runs with a `start` not sampled
has a computation open. -/
theorem illegalWordUnderUnsampledStart : Obligations.IllegalWordUnderUnsampledStart := by
  unfold Obligations.IllegalWordUnderUnsampledStart
  intro s w ws hrst hd _ hunsampled hinit hblock htail hfinal
  by_cases hf : s.flt = true
  · rw [if_pos hf]
    exact step_word_stopped hf hrst hd
  · rw [if_neg hf]
    exact step_illegal (Bool.eq_false_of_not_eq_true hf) hrst hd (.inr (hunsampled.resolve_right hf))
      (decode_illegal hinit hblock htail hfinal)

/-- Settles O31: Sequence is the cause of the first check and of no other. -/
theorem sequenceFaultTable : Obligations.SequenceFaultTable := by
  unfold Obligations.SequenceFaultTable
  refine fun i s hf => ⟨fun hph => exec_of_commandCheck hf (commandCheck_sequence_iff.2 hph), fun hph t h ht hc => ?_⟩
  obtain ⟨c, hcheck, rfl⟩ := exec_fault_entry hf h ht
  obtain rfl : c = .sequence := hc
  exact commandCheck_sequence_iff.1 hcheck hph

/-- Settles O32: the checks before the last one pass, and the last one is the framing. -/
theorem framingFaults : Obligations.FramingFaults := by
  unfold Obligations.FramingFaults
  exact fun i s hf hph hlen => ⟨fun hmis => exec_of_commandCheck hf ((commandCheck_of_allowed hph hlen).1 hmis),
    fun hfit t h => exec_flt_of_commandCheck_none hf ((commandCheck_of_allowed hph hlen).2 hfit) h⟩

/-- Settles O33: the word `30` is TAIL 0, and in ABSORB no `start` is sampled. -/
theorem tailLengthFault : Obligations.TailLengthFault := by
  unfold Obligations.TailLengthFault
  refine ⟨fun s n hf hph hn => exec_tail_tailLength hf hph hn, fun s ws hf hph hrst hd => ?_⟩
  have hopen : s.ph.isOpen = true := Phase.isOpen_iff.2 (.inl hph)
  have hword : decode 0x30#8 = .command (.tail 0) := decode_tail rfl
  rw [step_runWord hrst hd (.inr (.inl hopen)), runWord_command hword]
  exact exec_tail_tailLength (s := feed ws s) hf hph (.inl rfl)

/-- Settles O34: the stop, the decoding and the three checks, in their order. -/
theorem faultPriority : Obligations.FaultPriority := by
  unfold Obligations.FaultPriority
  refine fun w s => ⟨fun hf => runWord_stopped hf w, runWord_illegal, fun i hf hw => ?_⟩
  rw [runWord_command hw]
  refine ⟨fun hph => exec_of_commandCheck hf (commandCheck_sequence_iff.2 hph), fun hph => ⟨?_, fun hi hmis => ?_,
    fun hi hfit t h => ?_⟩⟩
  · rintro rfl
    exact exec_tail_tailLength hf (mem_allowedIn_tail.1 hph) (.inl rfl)
  · exact exec_of_commandCheck hf ((commandCheck_of_allowed hph (tail_length_of_decode hw hi)).1 hmis)
  · exact exec_flt_of_commandCheck_none hf ((commandCheck_of_allowed hph (tail_length_of_decode hw hi)).2 hfit) h

/-- Settles O35: a command's fault comes from its checks, which read no message byte; an illegal word's comes from the
decoder. -/
theorem faultEntryExactly : Obligations.FaultEntryExactly := by
  unfold Obligations.FaultEntryExactly
  refine ⟨fun i s t hf h ht => ?_, fun w s t hf h ht => ?_⟩
  · obtain ⟨c, hc, rfl⟩ := exec_fault_entry hf h ht
    exact ⟨commandCheck_ne_noFault hc, rfl, rfl, by simp [State.doneOut], by simp [State.busyOut],
      exec_withMessage_of_commandCheck hf hc⟩
  · cases hw : decode w with
    | command i =>
      rw [runWord_command hw] at h
      obtain ⟨c, hc, rfl⟩ := exec_fault_entry hf h ht
      refine ⟨commandCheck_ne_noFault hc, rfl, fun m => ?_⟩
      rw [runWord_command hw]
      exact exec_withMessage_of_commandCheck hf hc m
    | illegal =>
      rw [runWord_illegal hf hw] at h
      cases h
      exact ⟨by simp, rfl, fun m => runWord_illegal (s := withMessage m s) hf hw⟩

/-- Settles O36. -/
theorem stoppedUntilReset : Obligations.StoppedUntilReset := by
  unfold Obligations.StoppedUntilReset
  refine ⟨fun i s hf => exec_stopped i hf, fun s hf hrst => ⟨fun w ws hd => step_word_stopped hf hrst hd, ?_⟩,
    fun s hf => readDigest_of_not_endOfRun fun hend => ?_, fun s t hf h ht => rst_of_step_clears_flt hf h ht⟩
  · rintro (hd | hd)
    · rw [step_sequencer hrst hd, nextCommand_stopped hf, performChoice]
    · rw [step_commandPort hrst hd, commandPortStep]
  · obtain ⟨_, hrunning⟩ := hend
    simp [hf] at hrunning

end Sys2Proof.Machine

/-! PROOFS. The reset (`70_reset_and_hazards.md` R260): what can be observed of an engine in its reset state, whether a
step or the host's move put it there. -/

namespace Sys2Proof.Machine

/-! ### The reset state observed -/

@[simp] theorem resetEngine_doneOut (s : State) : (resetEngine s).doneOut = false := by simp [State.doneOut]
@[simp] theorem resetEngine_busyOut (s : State) : (resetEngine s).busyOut = false := by
  simp [State.busyOut, Phase.isOpen]
@[simp] theorem resetEngine_faultOut (s : State) : (resetEngine s).faultOut = false := resetEngine_flt s

/-- The reset leaves no digest byte with a value. -/
theorem read_resetEngine_digest (s : State) (a : Nat) : Memory.read (resetEngine s).digest a = none := by
  rw [resetEngine_digest, Memory.read]

/-- The reset state is no end of a run, so the digest read is refused (R172). -/
theorem readDigest_resetEngine (s : State) : readDigest (resetEngine s) = .error .digestNotValid :=
  readDigest_of_not_endOfRun fun ⟨hdone, _⟩ => by simp at hdone

/-- The reset writes nothing of what the host drives. -/
theorem sameInputs_resetEngine (s : State) : SameInputs s (resetEngine s) := by simp [SameInputs]

/-- R260, U14: all that can be observed of the reset state. -/
theorem resetEngine_observed (s : State) :
    (resetEngine s).ph = .idle ∧ (resetEngine s).flt = false ∧ (resetEngine s).fcause = .noFault ∧
      (resetEngine s).doneOut = false ∧ (resetEngine s).busyOut = false ∧ (resetEngine s).faultOut = false ∧
      (∀ a, Memory.read (resetEngine s).digest a = none) ∧ readDigest (resetEngine s) = .error .digestNotValid ∧
      SameInputs s (resetEngine s) :=
  ⟨resetEngine_ph s, resetEngine_flt s, resetEngine_fcause s, resetEngine_doneOut s, resetEngine_busyOut s,
    resetEngine_faultOut s, read_resetEngine_digest s, readDigest_resetEngine s, sameInputs_resetEngine s⟩

/-! ### What puts the engine in its reset state -/

theorem step_reset {s : State} (hrst : s.rst = true) : step s = .next (resetEngine s) := by
  rw [step, if_pos hrst]

theorem hostMove_assertReset (s : State) :
    hostMove (.driveReset true) s = .ok (resetEngine { s with rst := true }) := rfl

/-- Releasing `rst` leaves the engine in its reset state: the level of the port is all that changes. -/
theorem hostMove_releaseReset (s : State) :
    hostMove (.driveReset false) (resetEngine s) = .ok (resetEngine { s with rst := false }) := rfl

/-- Settles O12: the step is the reset, whatever the state. -/
theorem resetFromAnyState : Obligations.ResetFromAnyState := by
  unfold Obligations.ResetFromAnyState
  exact fun s hrst => ⟨resetEngine s, step_reset hrst, resetEngine_observed s⟩

/-- Settles O46: after the assertion and after the release the engine is in its reset state, with `rst` at the level
driven. -/
theorem assertingResetLosesTheComputation : Obligations.AssertingResetLosesTheComputation := by
  unfold Obligations.AssertingResetLosesTheComputation
  refine fun s => ⟨resetEngine { s with rst := true }, resetEngine { s with rst := false }, hostMove_assertReset s,
    hostMove_releaseReset { s with rst := true }, resetEngine_rst _, resetEngine_rst _, ?_⟩
  rintro v (rfl | rfl)
  · exact resetEngine_observed { s with rst := true }
  · exact resetEngine_observed { s with rst := false }

end Sys2Proof.Machine
